-- ==== Sys2Proof/Word.lean ====
section
/-! DEFINITION. The word types of the block (00_scope.md R15, R16): every value is an unsigned integer. -/

namespace Sys2Proof

/-- A byte is 8 bits (R15). -/
abbrev Byte := BitVec 8

/-- A code unit is a 16-bit value (R15). -/
abbrev CodeUnit := BitVec 16

/-- The width of a data register: 64 bits (10_state.md R21). -/
abbrev XWord := BitVec 64

/-- A command is one 32-bit word (30_encoding.md R80). -/
abbrev Command := BitVec 32

end Sys2Proof
end

