-- ==== Sys2Proof/Syntax.lean ====
section
/-! DEFINITION. Abstract syntax: the names of the record registers, of their sub-fields and of the text fields,
and one constructor of `Instr` per row of spec/opcode_table.json (30_encoding.md R87). -/

namespace Sys2Proof

/-- The backing word widths (00_scope.md R11: W is 8, 16, 32 or 64), selected by `wsel` (30_encoding.md R82). -/
inductive Width where
  | w8 | w16 | w32 | w64
  deriving DecidableEq, Repr

/-- The integer sizes in bytes of Format M (30_encoding.md R83: 1, 2, 4 or 8), selected by `sz`. -/
inductive Size where
  | b1 | b2 | b4 | b8
  deriving DecidableEq, Repr

/-- The 45 registers of the record register file (10_state.md R31, R32, R33), in layout order. -/
inductive Reg where
  | aMagic | aOptions | aPosition | aOrigin | aSystemId | aRecordId
  | aMac | aPad | aDetails | aName | aHeight | aWidth
  | aFaceStyle | aFaceDetail | aHairStyle | aHairDetail | aEye | aEyebrow
  | aNose | aMouth | aMustache | aBeard | aGlasses | aMole
  | aAuthorName | cUnknown | cChecksum | fMagic | fMagicNumber | fPad08
  | fOpaque | fComment | fPad50 | fRegion | fCountry | fArea
  | fLanguage | fPlatform | fPad5D | fLocalSeed | fHexId | fSerial
  | fDisplayName | fPadB8 | fPad11B
  deriving DecidableEq, Repr

/-- The 57 named sub-fields of the bit-field groups (30_encoding.md R74), in the document's order. -/
inductive SubField where
  | optionsAllowCopy | optionsPrivateName | optionsRegionLock | optionsCharSet | positionPage
  | positionSlot | originUnk | originConsole | detailsSex | detailsBdayMonth
  | detailsBdayDay | detailsShirtColor | detailsFavorite | faceStyleNoShare | faceStyleShape
  | faceStyleSkin | faceDetailWrinkles | faceDetailMakeup | hairDetailColor | hairDetailFlip
  | eyeStyle | eyeColor | eyeScale | eyeYscale | eyeRotation
  | eyeXspacing | eyeYposition | eyebrowStyle | eyebrowColor | eyebrowScale
  | eyebrowYscale | eyebrowPad | eyebrowRotation | eyebrowXspacing | eyebrowYposition
  | noseStyle | noseScale | noseYposition | mouthStyle | mouthColor
  | mouthScale | mouthYscale | mustacheMouthY | mustacheStyle | mustachePad
  | beardStyle | beardColor | beardScale | beardYpos | glassesStyle
  | glassesColor | glassesScale | glassesYpos | moleEnable | moleScale
  | moleXpos | moleYpos
  deriving DecidableEq, Repr

/-- What FLD.GET and FLD.SET name (30_encoding.md R77): a whole register (or one element of an array register), or a
sub-field of a bit-field group. -/
inductive FieldId where
  | reg (r : Reg)
  | sub (f : SubField)
  deriving DecidableEq, Repr

/-- The six text fields TXT.DEC and TXT.ENC name (30_encoding.md R78). -/
inductive TextField where
  | aName | aAuthorName | fComment | fHexId | fSerial | fDisplayName
  deriving DecidableEq, Repr

/-- The 21 operations (30_encoding.md R87). An operand has exactly the bits its format gives it (R82 to R86), but the
selectors `wsel`, `sz`, `fid` and `tid`, which stand as the names they select. -/
inductive Instr where
  /-- BF.EXT W, o, n (40_bitfield.md R103) -/
  | bfExt (W : Width) (o : BitVec 6) (n : BitVec 7)
  /-- BF.PACK W, o, n (40_bitfield.md R104) -/
  | bfPack (W : Width) (o : BitVec 6) (n : BitVec 7)
  /-- LDI.LE k, off (41_integer.md R110) -/
  | ldiLe (k : Size) (off : BitVec 9)
  /-- LDI.BE k, off (41_integer.md R111) -/
  | ldiBe (k : Size) (off : BitVec 9)
  /-- STI.LE k, off (41_integer.md R112) -/
  | stiLe (k : Size) (off : BitVec 9)
  /-- STI.BE k, off (41_integer.md R113) -/
  | stiBe (k : Size) (off : BitVec 9)
  /-- AVA.DEC (42_record.md R123) -/
  | avaDec
  /-- AVA.ENC (42_record.md R124) -/
  | avaEnc
  /-- CAV.DEC (42_record.md R125) -/
  | cavDec
  /-- CAV.ENC (42_record.md R126) -/
  | cavEnc
  /-- FRD.DEC (42_record.md R127) -/
  | frdDec
  /-- FRD.ENC (42_record.md R128) -/
  | frdEnc
  /-- FLD.GET f (42_record.md R129) -/
  | fldGet (f : FieldId) (idx : BitVec 5)
  /-- FLD.SET f (42_record.md R130) -/
  | fldSet (f : FieldId) (idx : BitVec 5)
  /-- REC.ZERO (42_record.md R131) -/
  | recZero
  /-- TXT.DEC t (43_text.md R142) -/
  | txtDec (t : TextField)
  /-- TXT.ENC t (43_text.md R143) -/
  | txtEnc (t : TextField)
  /-- CRC16 off, len (44_checksum.md R154) -/
  | crc16 (off : BitVec 9) (len : BitVec 9)
  /-- CRC.VFY, also written VERIFY (44_checksum.md R155, 30_encoding.md R93) -/
  | crcVfy
  /-- CRC.FIX, also written SEAL (44_checksum.md R156, 30_encoding.md R93) -/
  | crcFix
  /-- CHK.DGT (44_checksum.md R159) -/
  | chkDgt
  deriving DecidableEq, Repr

end Sys2Proof
end

