-- ==== Sys2Proof/Machine/Layout.lean ====
section
/-! DEFINITION. The field tables (30_encoding.md R70 to R78): static configuration, not state (R79). One row per
register and per sub-field, read off the tables of R71 to R74 and R77. -/

namespace Sys2Proof

/-- A width in bits: `W = 8 << wsel` (30_encoding.md R82). -/
def Width.bits : Width → Nat
  | .w8 => 8 | .w16 => 16 | .w32 => 32 | .w64 => 64

/-- A size in bytes: `k = 1 << sz` (30_encoding.md R83). -/
def Size.bytes : Size → Nat
  | .b1 => 1 | .b2 => 2 | .b4 => 4 | .b8 => 8

/-- The contract of the document's bit-field functions, "1 ≤ n ≤ W−o", as R82 writes it: `n >= 1` and `o + n <= W`. -/
abbrev InField (W o n : Nat) : Prop := 1 ≤ n ∧ o + n ≤ W

/-- The byte order of a field inside a frame (20_memory.md R53); a single byte has none. -/
inductive ByteOrder where
  | single | big | little
  deriving DecidableEq, Repr

/-- The four kinds of record register (10_state.md R30). -/
inductive RegKind where
  /-- an unsigned integer of `w` bits, stored in the byte order given -/
  | integer (w : Nat) (order : ByteOrder)
  /-- a bit-field group: its backing word of `w` bits, stored in the byte order given -/
  | group (w : Nat) (order : ByteOrder)
  /-- `n` bytes, element i at offset + i -/
  | byteArray (n : Nat)
  /-- `n` code units, each little-endian (20_memory.md R56) -/
  | unitArray (n : Nat)
  deriving DecidableEq, Repr

/-- One row of the tables of R71 (for the `F.` registers) or of R72 and R73 (for the `C.` and `A.` registers): the
kind, and the byte offset from the start of that frame. -/
structure FieldRow where
  kind : RegKind
  offset : Nat
  deriving DecidableEq, Repr

/-- The rows of 30_encoding.md R71 (`F.`), R72 (`C.`) and R73 (`A.`). -/
def Reg.row : Reg → FieldRow
  | .aMagic => ⟨.integer 8 .single, 0x000⟩
  | .aOptions => ⟨.group 8 .single, 0x001⟩
  | .aPosition => ⟨.group 8 .single, 0x002⟩
  | .aOrigin => ⟨.group 8 .single, 0x003⟩
  | .aSystemId => ⟨.integer 64 .big, 0x004⟩
  | .aRecordId => ⟨.integer 32 .big, 0x00C⟩
  | .aMac => ⟨.byteArray 6, 0x010⟩
  | .aPad => ⟨.integer 16 .big, 0x016⟩
  | .aDetails => ⟨.group 16 .big, 0x018⟩
  | .aName => ⟨.unitArray 10, 0x01A⟩
  | .aHeight => ⟨.integer 8 .single, 0x02E⟩
  | .aWidth => ⟨.integer 8 .single, 0x02F⟩
  | .aFaceStyle => ⟨.group 8 .single, 0x030⟩
  | .aFaceDetail => ⟨.group 8 .single, 0x031⟩
  | .aHairStyle => ⟨.integer 8 .single, 0x032⟩
  | .aHairDetail => ⟨.group 8 .single, 0x033⟩
  | .aEye => ⟨.group 32 .big, 0x034⟩
  | .aEyebrow => ⟨.group 32 .big, 0x038⟩
  | .aNose => ⟨.group 16 .big, 0x03C⟩
  | .aMouth => ⟨.group 16 .big, 0x03E⟩
  | .aMustache => ⟨.group 16 .big, 0x040⟩
  | .aBeard => ⟨.group 16 .big, 0x042⟩
  | .aGlasses => ⟨.group 16 .big, 0x044⟩
  | .aMole => ⟨.group 16 .big, 0x046⟩
  | .aAuthorName => ⟨.unitArray 10, 0x048⟩
  | .cUnknown => ⟨.integer 16 .big, 0x05C⟩
  | .cChecksum => ⟨.integer 16 .big, 0x05E⟩
  | .fMagic => ⟨.integer 32 .little, 0x000⟩
  | .fMagicNumber => ⟨.integer 32 .little, 0x004⟩
  | .fPad08 => ⟨.byteArray 8, 0x008⟩
  | .fOpaque => ⟨.byteArray 32, 0x010⟩
  | .fComment => ⟨.unitArray 16, 0x030⟩
  | .fPad50 => ⟨.byteArray 8, 0x050⟩
  | .fRegion => ⟨.integer 8 .single, 0x058⟩
  | .fCountry => ⟨.integer 8 .single, 0x059⟩
  | .fArea => ⟨.integer 8 .single, 0x05A⟩
  | .fLanguage => ⟨.integer 8 .single, 0x05B⟩
  | .fPlatform => ⟨.integer 8 .single, 0x05C⟩
  | .fPad5D => ⟨.byteArray 3, 0x05D⟩
  | .fLocalSeed => ⟨.integer 64 .little, 0x060⟩
  | .fHexId => ⟨.unitArray 13, 0x068⟩
  | .fSerial => ⟨.unitArray 16, 0x082⟩
  | .fDisplayName => ⟨.unitArray 11, 0x0A2⟩
  | .fPadB8 => ⟨.byteArray 3, 0x0B8⟩
  | .fPad11B => ⟨.byteArray 5, 0x11B⟩

/-- The width of one element in bits (30_encoding.md R77, "element width"). -/
def RegKind.elemBits : RegKind → Nat
  | .integer w _ => w
  | .group w _ => w
  | .byteArray _ => 8
  | .unitArray _ => 16

/-- The element count (30_encoding.md R77): 1 for a scalar register. -/
def RegKind.count : RegKind → Nat
  | .integer _ _ => 1
  | .group _ _ => 1
  | .byteArray n => n
  | .unitArray n => n

/-- The number of bytes the field occupies in a frame (30_encoding.md R71 to R73, "size"). -/
def RegKind.size : RegKind → Nat
  | .integer w _ => w / 8
  | .group w _ => w / 8
  | .byteArray n => n
  | .unitArray n => 2 * n

/-- The byte order of the register's integer; arrays have their own rules (R56). -/
def RegKind.order : RegKind → ByteOrder
  | .integer _ b => b
  | .group _ b => b
  | .byteArray _ => .single
  | .unitArray _ => .little

def Reg.elemBits (r : Reg) : Nat := r.row.kind.elemBits
def Reg.count (r : Reg) : Nat := r.row.kind.count
def Reg.size (r : Reg) : Nat := r.row.kind.size
def Reg.offset (r : Reg) : Nat := r.row.offset
def Reg.order (r : Reg) : ByteOrder := r.row.kind.order

/-- The 25 registers of AvatarRecord in layout order (10_state.md R31). -/
def Reg.avatar : List Reg :=
  [.aMagic, .aOptions, .aPosition, .aOrigin, .aSystemId, .aRecordId, .aMac,
   .aPad, .aDetails, .aName, .aHeight, .aWidth, .aFaceStyle, .aFaceDetail,
   .aHairStyle, .aHairDetail, .aEye, .aEyebrow, .aNose, .aMouth, .aMustache,
   .aBeard, .aGlasses, .aMole, .aAuthorName]

/-- The 2 registers the wrapper adds (10_state.md R32). -/
def Reg.wrapper : List Reg := [.cUnknown, .cChecksum]

/-- The 18 registers of FriendDataRecord outside the embedded record, in layout order (10_state.md R33). -/
def Reg.friend : List Reg :=
  [.fMagic, .fMagicNumber, .fPad08, .fOpaque, .fComment, .fPad50, .fRegion,
   .fCountry, .fArea, .fLanguage, .fPlatform, .fPad5D, .fLocalSeed, .fHexId,
   .fSerial, .fDisplayName, .fPadB8, .fPad11B]

/-- All 45 registers (10_state.md R30). -/
def Reg.all : List Reg := Reg.avatar ++ Reg.wrapper ++ Reg.friend

/-- Where the ChecksummedAvatarRecord stands inside a FriendDataRecord frame (30_encoding.md R71, R76). -/
def embedOffset : Nat := 0xBB

/-- The frame sizes (30_encoding.md R70). -/
def avatarSize : Nat := 0x5C
def checksummedSize : Nat := 0x60
def friendSize : Nat := 0x120

/-- The checksummed range is `[0, 0x5E)` of the ChecksummedAvatarRecord (44_checksum.md R151). -/
def crcRange : Nat := 0x5E

/-- One row of the sub-field table: the group's register, the bit offset o and the width n. -/
structure SubRow where
  group : Reg
  o : Nat
  n : Nat
  deriving DecidableEq, Repr

/-- The rows of 30_encoding.md R74. -/
def SubField.row : SubField → SubRow
  | .optionsAllowCopy => ⟨.aOptions, 0, 1⟩
  | .optionsPrivateName => ⟨.aOptions, 1, 1⟩
  | .optionsRegionLock => ⟨.aOptions, 2, 2⟩
  | .optionsCharSet => ⟨.aOptions, 4, 2⟩
  | .positionPage => ⟨.aPosition, 0, 4⟩
  | .positionSlot => ⟨.aPosition, 4, 4⟩
  | .originUnk => ⟨.aOrigin, 0, 4⟩
  | .originConsole => ⟨.aOrigin, 4, 3⟩
  | .detailsSex => ⟨.aDetails, 0, 1⟩
  | .detailsBdayMonth => ⟨.aDetails, 1, 4⟩
  | .detailsBdayDay => ⟨.aDetails, 5, 5⟩
  | .detailsShirtColor => ⟨.aDetails, 10, 4⟩
  | .detailsFavorite => ⟨.aDetails, 14, 1⟩
  | .faceStyleNoShare => ⟨.aFaceStyle, 0, 1⟩
  | .faceStyleShape => ⟨.aFaceStyle, 1, 4⟩
  | .faceStyleSkin => ⟨.aFaceStyle, 5, 3⟩
  | .faceDetailWrinkles => ⟨.aFaceDetail, 0, 4⟩
  | .faceDetailMakeup => ⟨.aFaceDetail, 4, 4⟩
  | .hairDetailColor => ⟨.aHairDetail, 0, 3⟩
  | .hairDetailFlip => ⟨.aHairDetail, 3, 1⟩
  | .eyeStyle => ⟨.aEye, 0, 6⟩
  | .eyeColor => ⟨.aEye, 6, 3⟩
  | .eyeScale => ⟨.aEye, 9, 4⟩
  | .eyeYscale => ⟨.aEye, 13, 3⟩
  | .eyeRotation => ⟨.aEye, 16, 5⟩
  | .eyeXspacing => ⟨.aEye, 21, 4⟩
  | .eyeYposition => ⟨.aEye, 25, 5⟩
  | .eyebrowStyle => ⟨.aEyebrow, 0, 5⟩
  | .eyebrowColor => ⟨.aEyebrow, 5, 3⟩
  | .eyebrowScale => ⟨.aEyebrow, 8, 4⟩
  | .eyebrowYscale => ⟨.aEyebrow, 12, 3⟩
  | .eyebrowPad => ⟨.aEyebrow, 15, 1⟩
  | .eyebrowRotation => ⟨.aEyebrow, 16, 5⟩
  | .eyebrowXspacing => ⟨.aEyebrow, 21, 4⟩
  | .eyebrowYposition => ⟨.aEyebrow, 25, 5⟩
  | .noseStyle => ⟨.aNose, 0, 5⟩
  | .noseScale => ⟨.aNose, 5, 4⟩
  | .noseYposition => ⟨.aNose, 9, 5⟩
  | .mouthStyle => ⟨.aMouth, 0, 6⟩
  | .mouthColor => ⟨.aMouth, 6, 3⟩
  | .mouthScale => ⟨.aMouth, 9, 4⟩
  | .mouthYscale => ⟨.aMouth, 13, 3⟩
  | .mustacheMouthY => ⟨.aMustache, 0, 5⟩
  | .mustacheStyle => ⟨.aMustache, 5, 3⟩
  | .mustachePad => ⟨.aMustache, 8, 2⟩
  | .beardStyle => ⟨.aBeard, 0, 3⟩
  | .beardColor => ⟨.aBeard, 3, 3⟩
  | .beardScale => ⟨.aBeard, 6, 4⟩
  | .beardYpos => ⟨.aBeard, 10, 5⟩
  | .glassesStyle => ⟨.aGlasses, 0, 4⟩
  | .glassesColor => ⟨.aGlasses, 4, 3⟩
  | .glassesScale => ⟨.aGlasses, 7, 4⟩
  | .glassesYpos => ⟨.aGlasses, 11, 5⟩
  | .moleEnable => ⟨.aMole, 0, 1⟩
  | .moleScale => ⟨.aMole, 1, 5⟩
  | .moleXpos => ⟨.aMole, 6, 5⟩
  | .moleYpos => ⟨.aMole, 11, 5⟩

/-- All 57 sub-fields in the order of 30_encoding.md R74. -/
def SubField.all : List SubField :=
  [.optionsAllowCopy, .optionsPrivateName, .optionsRegionLock, .optionsCharSet, .positionPage, .positionSlot,
   .originUnk, .originConsole, .detailsSex, .detailsBdayMonth, .detailsBdayDay, .detailsShirtColor,
   .detailsFavorite, .faceStyleNoShare, .faceStyleShape, .faceStyleSkin, .faceDetailWrinkles, .faceDetailMakeup,
   .hairDetailColor, .hairDetailFlip, .eyeStyle, .eyeColor, .eyeScale, .eyeYscale,
   .eyeRotation, .eyeXspacing, .eyeYposition, .eyebrowStyle, .eyebrowColor, .eyebrowScale,
   .eyebrowYscale, .eyebrowPad, .eyebrowRotation, .eyebrowXspacing, .eyebrowYposition, .noseStyle,
   .noseScale, .noseYposition, .mouthStyle, .mouthColor, .mouthScale, .mouthYscale,
   .mustacheMouthY, .mustacheStyle, .mustachePad, .beardStyle, .beardColor, .beardScale,
   .beardYpos, .glassesStyle, .glassesColor, .glassesScale, .glassesYpos, .moleEnable,
   .moleScale, .moleXpos, .moleYpos]

/-- Every declared sub-field lies inside its backing word (30_encoding.md R79). -/
theorem SubField.inField (f : SubField) : InField f.row.group.elemBits f.row.o f.row.n := by
  cases f <;> decide

/-- What FLD.GET and FLD.SET allow as an element index: `idx < count` (30_encoding.md R77, R85); 1 for a sub-field. -/
def FieldId.count : FieldId → Nat
  | .reg r => r.count
  | .sub _ => 1

/-- The width a value must fit in to be written there (42_record.md R130). -/
def FieldId.bits : FieldId → Nat
  | .reg r => r.elemBits
  | .sub f => f.row.n

/-- The register a text id names (30_encoding.md R78). -/
def TextField.reg : TextField → Reg
  | .aName => .aName
  | .aAuthorName => .aAuthorName
  | .fComment => .fComment
  | .fHexId => .fHexId
  | .fSerial => .fSerial
  | .fDisplayName => .fDisplayName

/-- The capacity of a text field in code units (30_encoding.md R78). -/
def TextField.capacity (t : TextField) : Nat := t.reg.count

end Sys2Proof
end

