-- ==== Sys2Proof/WellFormed.lean ====
section
/-! DEFINITION. Well-formed instructions: the static constraints of the formats (30_encoding.md R80, R82, R85, R86).
The widths of the operands, an assigned `fid` and an assigned `tid` hold by the types of Syntax.lean. -/

namespace Sys2Proof

/-- A legal command's operands satisfy the static constraints of its format (30_encoding.md R80): Format B
`n >= 1` and `o + n <= W`; Format F `idx` below the element count; the other formats have none. -/
def Instr.wellFormed : Instr → Bool
  | .bfExt W o n => InField W.bits o.toNat n.toNat
  | .bfPack W o n => InField W.bits o.toNat n.toNat
  | .ldiLe _ _ => true
  | .ldiBe _ _ => true
  | .stiLe _ _ => true
  | .stiBe _ _ => true
  | .avaDec => true
  | .avaEnc => true
  | .cavDec => true
  | .cavEnc => true
  | .frdDec => true
  | .frdEnc => true
  | .fldGet f idx => decide (idx.toNat < f.count)
  | .fldSet f idx => decide (idx.toNat < f.count)
  | .recZero => true
  | .txtDec _ => true
  | .txtEnc _ => true
  | .crc16 _ _ => true
  | .crcVfy => true
  | .crcFix => true
  | .chkDgt => true

/-- Well-formedness as a proposition. -/
abbrev Instr.WellFormed (i : Instr) : Prop := i.wellFormed = true

end Sys2Proof
end

