-- ==== Sys2Proof/Decode.lean ====
section
/-! DEFINITION. The command word (30_encoding.md R80 to R89): numbering of fields and texts (R77, R78), the opcode
map (R87), the decoder, total on every 32-bit word and rejecting by name, and the encoder. -/

namespace Sys2Proof

/-- Why a word is illegal (30_encoding.md R89). The machine answers every one of them with IllegalOp (R172). -/
inductive Illegal where
  /-- `op` is not one of the 21 codes of R87 -/
  | unassignedOp
  /-- a must-be-zero bit of the format is one -/
  | mustBeZero
  /-- Format B with `n = 0` or `o + n > W` -/
  | badBitField
  /-- Format F with an unassigned `fid` -/
  | unassignedField
  /-- Format F with `idx` not below the register's element count -/
  | badIndex
  /-- Format T with `tid` 6 or 7 -/
  | unassignedText
  deriving DecidableEq, Repr

/-! ## Selectors and ids -/

/-- `wsel` (R82). -/
def Width.code : Width → BitVec 2
  | .w8 => 0 | .w16 => 1 | .w32 => 2 | .w64 => 3

def Width.ofCode (c : BitVec 2) : Width :=
  match c with
  | 0#2 => .w8 | 1#2 => .w16 | 2#2 => .w32 | 3#2 => .w64

/-- `sz` (R83). -/
def Size.code : Size → BitVec 2
  | .b1 => 0 | .b2 => 1 | .b4 => 2 | .b8 => 3

def Size.ofCode (c : BitVec 2) : Size :=
  match c with
  | 0#2 => .b1 | 1#2 => .b2 | 2#2 => .b4 | 3#2 => .b8

/-- The `fid` of a register (R77; the `fid` column of R71 to R73). -/
def Reg.code : Reg → BitVec 8
  | .aMagic => 0x00 | .aOptions => 0x01 | .aPosition => 0x02 | .aOrigin => 0x03
  | .aSystemId => 0x04 | .aRecordId => 0x05 | .aMac => 0x06 | .aPad => 0x07
  | .aDetails => 0x08 | .aName => 0x09 | .aHeight => 0x0A | .aWidth => 0x0B
  | .aFaceStyle => 0x0C | .aFaceDetail => 0x0D | .aHairStyle => 0x0E | .aHairDetail => 0x0F
  | .aEye => 0x10 | .aEyebrow => 0x11 | .aNose => 0x12 | .aMouth => 0x13
  | .aMustache => 0x14 | .aBeard => 0x15 | .aGlasses => 0x16 | .aMole => 0x17
  | .aAuthorName => 0x18 | .cUnknown => 0x19 | .cChecksum => 0x1A | .fMagic => 0x20
  | .fMagicNumber => 0x21 | .fPad08 => 0x22 | .fOpaque => 0x23 | .fComment => 0x24
  | .fPad50 => 0x25 | .fRegion => 0x26 | .fCountry => 0x27 | .fArea => 0x28
  | .fLanguage => 0x29 | .fPlatform => 0x2A | .fPad5D => 0x2B | .fLocalSeed => 0x2C
  | .fHexId => 0x2D | .fSerial => 0x2E | .fDisplayName => 0x2F | .fPadB8 => 0x30
  | .fPad11B => 0x31

/-- The `fid` of a sub-field (R74). -/
def SubField.code : SubField → BitVec 8
  | .optionsAllowCopy => 0x40 | .optionsPrivateName => 0x41 | .optionsRegionLock => 0x42
  | .optionsCharSet => 0x43 | .positionPage => 0x44 | .positionSlot => 0x45
  | .originUnk => 0x46 | .originConsole => 0x47 | .detailsSex => 0x48
  | .detailsBdayMonth => 0x49 | .detailsBdayDay => 0x4A | .detailsShirtColor => 0x4B
  | .detailsFavorite => 0x4C | .faceStyleNoShare => 0x4D | .faceStyleShape => 0x4E
  | .faceStyleSkin => 0x4F | .faceDetailWrinkles => 0x50 | .faceDetailMakeup => 0x51
  | .hairDetailColor => 0x52 | .hairDetailFlip => 0x53 | .eyeStyle => 0x54
  | .eyeColor => 0x55 | .eyeScale => 0x56 | .eyeYscale => 0x57
  | .eyeRotation => 0x58 | .eyeXspacing => 0x59 | .eyeYposition => 0x5A
  | .eyebrowStyle => 0x5B | .eyebrowColor => 0x5C | .eyebrowScale => 0x5D
  | .eyebrowYscale => 0x5E | .eyebrowPad => 0x5F | .eyebrowRotation => 0x60
  | .eyebrowXspacing => 0x61 | .eyebrowYposition => 0x62 | .noseStyle => 0x63
  | .noseScale => 0x64 | .noseYposition => 0x65 | .mouthStyle => 0x66
  | .mouthColor => 0x67 | .mouthScale => 0x68 | .mouthYscale => 0x69
  | .mustacheMouthY => 0x6A | .mustacheStyle => 0x6B | .mustachePad => 0x6C
  | .beardStyle => 0x6D | .beardColor => 0x6E | .beardScale => 0x6F
  | .beardYpos => 0x70 | .glassesStyle => 0x71 | .glassesColor => 0x72
  | .glassesScale => 0x73 | .glassesYpos => 0x74 | .moleEnable => 0x75
  | .moleScale => 0x76 | .moleXpos => 0x77 | .moleYpos => 0x78

def FieldId.code : FieldId → BitVec 8
  | .reg r => r.code
  | .sub f => f.code

/-- All 102 assigned field ids (R77). -/
def FieldId.all : List FieldId := Reg.all.map .reg ++ SubField.all.map .sub

/-- The field a `fid` names, none where it is unassigned (R77). -/
def FieldId.ofCode (c : BitVec 8) : Option FieldId := FieldId.all.find? (fun f => f.code == c)

/-- `tid` (R78). -/
def TextField.code : TextField → BitVec 3
  | .aName => 0 | .aAuthorName => 1 | .fComment => 2 | .fHexId => 3 | .fSerial => 4 | .fDisplayName => 5

/-- The text field a `tid` names; 6 and 7 are unassigned (R78). -/
def TextField.ofCode (c : BitVec 3) : Option TextField :=
  match c with
  | 0#3 => some .aName | 1#3 => some .aAuthorName | 2#3 => some .fComment | 3#3 => some .fHexId | 4#3 => some .fSerial | 5#3 => some .fDisplayName
  | _ => none

/-! ## The opcode map -/

/-- The six formats of a command word (R81 to R86). -/
inductive Format where
  | Z | B | M | C | F | T
  deriving DecidableEq, Repr

/-- The bits a word of the format must match: the operation code and the must-be-zero bits (R81 to R86). -/
def Format.mask : Format → Command
  | .Z => 0xFFFFFFFF | .B => 0xFF8000FF | .M => 0xFFF800FF
  | .C => 0xFC0000FF | .F => 0xFFE000FF | .T => 0xFFFFF8FF

/-- One row of the opcode map. -/
structure OpRow where
  mnemonic : String
  op : BitVec 8
  format : Format
  deriving DecidableEq, Repr

/-- `match`: the value of `cmd and mask` that selects the operation (R87); its bits above 7 are the zeros of R80. -/
def OpRow.pattern (r : OpRow) : Command := r.op.setWidth 32

/-- The opcode map (R87), row for row. -/
def opcodeTable : List OpRow :=
  [⟨"BF.EXT", 0x01, .B⟩,
   ⟨"BF.PACK", 0x02, .B⟩,
   ⟨"LDI.LE", 0x08, .M⟩,
   ⟨"LDI.BE", 0x09, .M⟩,
   ⟨"STI.LE", 0x0A, .M⟩,
   ⟨"STI.BE", 0x0B, .M⟩,
   ⟨"AVA.DEC", 0x10, .Z⟩,
   ⟨"AVA.ENC", 0x11, .Z⟩,
   ⟨"CAV.DEC", 0x12, .Z⟩,
   ⟨"CAV.ENC", 0x13, .Z⟩,
   ⟨"FRD.DEC", 0x14, .Z⟩,
   ⟨"FRD.ENC", 0x15, .Z⟩,
   ⟨"FLD.GET", 0x18, .F⟩,
   ⟨"FLD.SET", 0x19, .F⟩,
   ⟨"REC.ZERO", 0x1A, .Z⟩,
   ⟨"TXT.DEC", 0x20, .T⟩,
   ⟨"TXT.ENC", 0x21, .T⟩,
   ⟨"CRC16", 0x30, .C⟩,
   ⟨"CRC.VFY", 0x31, .Z⟩,
   ⟨"CRC.FIX", 0x32, .Z⟩,
   ⟨"CHK.DGT", 0x38, .Z⟩]

/-- The row an instruction belongs to (R87). -/
def Instr.row : Instr → OpRow
  | .bfExt _ _ _ => ⟨"BF.EXT", 0x01, .B⟩
  | .bfPack _ _ _ => ⟨"BF.PACK", 0x02, .B⟩
  | .ldiLe _ _ => ⟨"LDI.LE", 0x08, .M⟩
  | .ldiBe _ _ => ⟨"LDI.BE", 0x09, .M⟩
  | .stiLe _ _ => ⟨"STI.LE", 0x0A, .M⟩
  | .stiBe _ _ => ⟨"STI.BE", 0x0B, .M⟩
  | .avaDec => ⟨"AVA.DEC", 0x10, .Z⟩
  | .avaEnc => ⟨"AVA.ENC", 0x11, .Z⟩
  | .cavDec => ⟨"CAV.DEC", 0x12, .Z⟩
  | .cavEnc => ⟨"CAV.ENC", 0x13, .Z⟩
  | .frdDec => ⟨"FRD.DEC", 0x14, .Z⟩
  | .frdEnc => ⟨"FRD.ENC", 0x15, .Z⟩
  | .fldGet _ _ => ⟨"FLD.GET", 0x18, .F⟩
  | .fldSet _ _ => ⟨"FLD.SET", 0x19, .F⟩
  | .recZero => ⟨"REC.ZERO", 0x1A, .Z⟩
  | .txtDec _ => ⟨"TXT.DEC", 0x20, .T⟩
  | .txtEnc _ => ⟨"TXT.ENC", 0x21, .T⟩
  | .crc16 _ _ => ⟨"CRC16", 0x30, .C⟩
  | .crcVfy => ⟨"CRC.VFY", 0x31, .Z⟩
  | .crcFix => ⟨"CRC.FIX", 0x32, .Z⟩
  | .chkDgt => ⟨"CHK.DGT", 0x38, .Z⟩

/-! ## Decoding -/

/-- Format Z: `cmd[31:8]` must be zero (R81). -/
def decodeZ (i : Instr) (cmd : Command) : Except Illegal Instr :=
  if cmd.extractLsb' 8 24 ≠ 0 then .error .mustBeZero else .ok i

/-- Format B: wsel `9:8`, o `15:10`, n `22:16`, `31:23` zero; `n >= 1` and `o + n <= W` (R82). -/
def decodeB (mk : Width → BitVec 6 → BitVec 7 → Instr) (cmd : Command) : Except Illegal Instr :=
  let W := Width.ofCode (cmd.extractLsb' 8 2)
  let o := cmd.extractLsb' 10 6
  let n := cmd.extractLsb' 16 7
  if cmd.extractLsb' 23 9 ≠ 0 then .error .mustBeZero
  else if InField W.bits o.toNat n.toNat then .ok (mk W o n) else .error .badBitField

/-- Format M: off `16:8`, sz `18:17`, `31:19` zero (R83). -/
def decodeM (mk : Size → BitVec 9 → Instr) (cmd : Command) : Except Illegal Instr :=
  if cmd.extractLsb' 19 13 ≠ 0 then .error .mustBeZero
  else .ok (mk (Size.ofCode (cmd.extractLsb' 17 2)) (cmd.extractLsb' 8 9))

/-- Format C: off `16:8`, len `25:17`, `31:26` zero (R84). -/
def decodeC (mk : BitVec 9 → BitVec 9 → Instr) (cmd : Command) : Except Illegal Instr :=
  if cmd.extractLsb' 26 6 ≠ 0 then .error .mustBeZero
  else .ok (mk (cmd.extractLsb' 8 9) (cmd.extractLsb' 17 9))

/-- Format F: fid `15:8`, idx `20:16`, `31:21` zero; `fid` assigned and `idx` below the element count (R85). -/
def decodeF (mk : FieldId → BitVec 5 → Instr) (cmd : Command) : Except Illegal Instr :=
  let idx := cmd.extractLsb' 16 5
  if cmd.extractLsb' 21 11 ≠ 0 then .error .mustBeZero
  else match FieldId.ofCode (cmd.extractLsb' 8 8) with
    | none => .error .unassignedField
    | some f => if idx.toNat < f.count then .ok (mk f idx) else .error .badIndex

/-- Format T: tid `10:8`, `31:11` zero; `tid <= 5` (R86). -/
def decodeT (mk : TextField → Instr) (cmd : Command) : Except Illegal Instr :=
  if cmd.extractLsb' 11 21 ≠ 0 then .error .mustBeZero
  else match TextField.ofCode (cmd.extractLsb' 8 3) with
    | none => .error .unassignedText
    | some t => .ok (mk t)

/-- The decoder: the operation code is `cmd[7:0]` (R80), its format and operands as R87 says. A function of the word
alone, total on all 2^32 words (R80, R89). -/
def decode (cmd : Command) : Except Illegal Instr :=
  match cmd.extractLsb' 0 8 with
  | 0x01#8 => decodeB .bfExt cmd
  | 0x02#8 => decodeB .bfPack cmd
  | 0x08#8 => decodeM .ldiLe cmd
  | 0x09#8 => decodeM .ldiBe cmd
  | 0x0A#8 => decodeM .stiLe cmd
  | 0x0B#8 => decodeM .stiBe cmd
  | 0x10#8 => decodeZ .avaDec cmd
  | 0x11#8 => decodeZ .avaEnc cmd
  | 0x12#8 => decodeZ .cavDec cmd
  | 0x13#8 => decodeZ .cavEnc cmd
  | 0x14#8 => decodeZ .frdDec cmd
  | 0x15#8 => decodeZ .frdEnc cmd
  | 0x18#8 => decodeF .fldGet cmd
  | 0x19#8 => decodeF .fldSet cmd
  | 0x1A#8 => decodeZ .recZero cmd
  | 0x20#8 => decodeT .txtDec cmd
  | 0x21#8 => decodeT .txtEnc cmd
  | 0x30#8 => decodeC .crc16 cmd
  | 0x31#8 => decodeZ .crcVfy cmd
  | 0x32#8 => decodeZ .crcFix cmd
  | 0x38#8 => decodeZ .chkDgt cmd
  | _ => .error .unassignedOp

/-! ## Encoding -/

/-- `cmd = op` (R81). -/
def encodeZ (op : BitVec 8) : Command := op.setWidth 32

/-- `cmd = op | wsel << 8 | o << 10 | n << 16` (40_bitfield.md R103). -/
def encodeB (op : BitVec 8) (W : Width) (o : BitVec 6) (n : BitVec 7) : Command :=
  op.setWidth 32 ||| W.code.setWidth 32 <<< 8 ||| o.setWidth 32 <<< 10 ||| n.setWidth 32 <<< 16

/-- `cmd = op | off << 8 | sz << 17` (41_integer.md R110). -/
def encodeM (op : BitVec 8) (k : Size) (off : BitVec 9) : Command :=
  op.setWidth 32 ||| off.setWidth 32 <<< 8 ||| k.code.setWidth 32 <<< 17

/-- `cmd = op | off << 8 | len << 17` (44_checksum.md R154). -/
def encodeC (op : BitVec 8) (off len : BitVec 9) : Command :=
  op.setWidth 32 ||| off.setWidth 32 <<< 8 ||| len.setWidth 32 <<< 17

/-- `cmd = op | fid << 8 | idx << 16` (42_record.md R129). -/
def encodeF (op : BitVec 8) (f : FieldId) (idx : BitVec 5) : Command :=
  op.setWidth 32 ||| f.code.setWidth 32 <<< 8 ||| idx.setWidth 32 <<< 16

/-- `cmd = op | tid << 8` (43_text.md R142). -/
def encodeT (op : BitVec 8) (t : TextField) : Command :=
  op.setWidth 32 ||| t.code.setWidth 32 <<< 8

/-- The command word of an instruction (R81 to R87). -/
def encode : Instr → Command
  | .bfExt W o n => encodeB 0x01 W o n
  | .bfPack W o n => encodeB 0x02 W o n
  | .ldiLe k off => encodeM 0x08 k off
  | .ldiBe k off => encodeM 0x09 k off
  | .stiLe k off => encodeM 0x0A k off
  | .stiBe k off => encodeM 0x0B k off
  | .avaDec => encodeZ 0x10
  | .avaEnc => encodeZ 0x11
  | .cavDec => encodeZ 0x12
  | .cavEnc => encodeZ 0x13
  | .frdDec => encodeZ 0x14
  | .frdEnc => encodeZ 0x15
  | .fldGet f idx => encodeF 0x18 f idx
  | .fldSet f idx => encodeF 0x19 f idx
  | .recZero => encodeZ 0x1A
  | .txtDec t => encodeT 0x20 t
  | .txtEnc t => encodeT 0x21 t
  | .crc16 off len => encodeC 0x30 off len
  | .crcVfy => encodeZ 0x31
  | .crcFix => encodeZ 0x32
  | .chkDgt => encodeZ 0x38

/-! ## The table's numbering of the bits -/

/-- The command word whose low `nbits` bits are those of `w` and whose other bits are 0. A command is ONE 32-bit word
given by the host and stands in no memory (30_encoding.md R80, 20_memory.md R69), so no byte order enters. Log 5. -/
def commandOfBits (nbits w : Nat) : Command := BitVec.ofNat 32 (w % 2 ^ nbits)

/-- What the decoder reads from the word numbered as spec/opcode_table.json numbers it. -/
def decodeTableWord (nbits w : Nat) : Option Instr := (decode (commandOfBits nbits w)).toOption

end Sys2Proof
end

