-- ==== Sys2Proof/Machine/State.lean ====
section
/-! DEFINITION. The state of the block (10_state.md R20 to R41) as plain data, the inputs that reach it from outside
(20_memory.md R60 to R66, 70_reset_and_hazards.md R190), and its value after reset. -/

namespace Sys2Proof.Machine

/-- The bytes of a buffer: (address, byte) pairs, addresses strictly rising, none equal to what an unlisted address
reads as (`Memory.unlisted`, Ops.lean). Log 1. -/
abbrev Memory := List Host.Cell

/-- The 25 registers of AvatarRecord (10_state.md R31). A bit-field group is its whole backing word (R34), a
code-unit array holds its raw units (R35), all as logical values (R30). -/
structure AvatarRec where
  /-- `A.magic` -/
  magic : BitVec 8
  /-- `A.options` -/
  options : BitVec 8
  /-- `A.position` -/
  position : BitVec 8
  /-- `A.origin` -/
  origin : BitVec 8
  /-- `A.system_id` -/
  systemId : BitVec 64
  /-- `A.record_id` -/
  recordId : BitVec 32
  /-- `A.mac` -/
  mac : Vector Byte 6
  /-- `A.pad` -/
  pad : BitVec 16
  /-- `A.details` -/
  details : BitVec 16
  /-- `A.name` -/
  name : Vector CodeUnit 10
  /-- `A.height` -/
  height : BitVec 8
  /-- `A.width` -/
  width : BitVec 8
  /-- `A.face_style` -/
  faceStyle : BitVec 8
  /-- `A.face_detail` -/
  faceDetail : BitVec 8
  /-- `A.hair_style` -/
  hairStyle : BitVec 8
  /-- `A.hair_detail` -/
  hairDetail : BitVec 8
  /-- `A.eye` -/
  eye : BitVec 32
  /-- `A.eyebrow` -/
  eyebrow : BitVec 32
  /-- `A.nose` -/
  nose : BitVec 16
  /-- `A.mouth` -/
  mouth : BitVec 16
  /-- `A.mustache` -/
  mustache : BitVec 16
  /-- `A.beard` -/
  beard : BitVec 16
  /-- `A.glasses` -/
  glasses : BitVec 16
  /-- `A.mole` -/
  mole : BitVec 16
  /-- `A.author_name` -/
  authorName : Vector CodeUnit 10
  deriving DecidableEq, Repr

/-- The 18 registers of FriendDataRecord outside the embedded record (10_state.md R33). -/
structure FriendRec where
  /-- `F.magic` -/
  magic : BitVec 32
  /-- `F.magic_number` -/
  magicNumber : BitVec 32
  /-- `F.pad08` -/
  pad08 : Vector Byte 8
  /-- `F.opaque` -/
  opaqueBytes : Vector Byte 32
  /-- `F.comment` -/
  comment : Vector CodeUnit 16
  /-- `F.pad50` -/
  pad50 : Vector Byte 8
  /-- `F.region` -/
  region : BitVec 8
  /-- `F.country` -/
  country : BitVec 8
  /-- `F.area` -/
  area : BitVec 8
  /-- `F.language` -/
  language : BitVec 8
  /-- `F.platform` -/
  platform : BitVec 8
  /-- `F.pad5D` -/
  pad5D : Vector Byte 3
  /-- `F.local_seed` -/
  localSeed : BitVec 64
  /-- `F.hex_id` -/
  hexId : Vector CodeUnit 13
  /-- `F.serial` -/
  serial : Vector CodeUnit 16
  /-- `F.display_name` -/
  displayName : Vector CodeUnit 11
  /-- `F.padB8` -/
  padB8 : Vector Byte 3
  /-- `F.pad11B` -/
  pad11B : Vector Byte 5
  deriving DecidableEq, Repr

/-- The record register file `REC`: 45 registers (10_state.md R30), the three record types by nesting (R37). -/
structure RecFile where
  /-- the `A.` registers (R31) -/
  a : AvatarRec
  /-- `C.unknown` (R32) -/
  cUnknown : BitVec 16
  /-- `C.checksum` (R32) -/
  cChecksum : BitVec 16
  /-- the `F.` registers (R33) -/
  f : FriendRec
  deriving DecidableEq, Repr

/-- What the host can be shown (20_memory.md R62 to R65). -/
inductive Reply where
  /-- H.READ: the presented window and `FLEN` (R62) -/
  | frame (bytes : List Byte) (flen : BitVec 16)
  /-- H.GETX: the value of one data register (R63) -/
  | xreg (i : Fin 3) (v : XWord)
  /-- H.RTEXT: the string of the text buffer and `TLEN` (R64) -/
  | text (bytes : List Byte) (tlen : BitVec 8)
  /-- H.STATUS (R65) -/
  | status (err : BitVec 3) (eflags : BitVec 8) (crc flen : BitVec 16) (tlen : BitVec 8)
  deriving DecidableEq, Repr

/-- What can reach the block from outside, one at a time and only between operations (20_memory.md R60). -/
inductive Input where
  /-- H.FRAME(s) (R61) -/
  | frame (s : List Byte)
  /-- H.READ() (R62) -/
  | read
  /-- H.SETX(i, v) (R63) -/
  | setx (i : Fin 3) (v : XWord)
  /-- H.GETX(i) (R63) -/
  | getx (i : Fin 3)
  /-- H.GETX(j) followed by H.SETX(i, that value): the directive `.movx i, j` (30_encoding.md R92). Log 10. -/
  | movx (i j : Fin 3)
  /-- H.TEXT(s) (R64) -/
  | text (s : List Byte)
  /-- H.RTEXT() (R64) -/
  | rtext
  /-- H.STATUS() (R65) -/
  | status
  /-- H.ISSUE(cmd) (R66) -/
  | issue (cmd : Command)
  /-- reset (70_reset_and_hazards.md R190), which is no host action. Log 4. -/
  | reset
  deriving DecidableEq, Repr

/-- The machine. All but the last two fields are the block's architectural state, "exactly" these (10_state.md R20). -/
structure State where
  /-- `x[0]`, the word operand (R21, R22) -/
  x0 : XWord
  /-- `x[1]`, the value operand (R21, R22) -/
  x1 : XWord
  /-- `x[2]`, the result (R21, R22) -/
  x2 : XWord
  /-- `ERR`, the status of the last operation (R24) -/
  err : BitVec 3
  /-- `EFLAGS`, bit k sticky for status k, bit 0 hardwired 0 (R25) -/
  eflags : BitVec 8
  /-- `CRC`, the last remainder computed (R26) -/
  crc : BitVec 16
  /-- `FLEN`, the presented frame length, saturating (R27) -/
  flen : BitVec 16
  /-- `TLEN`, the presented text length, saturating (R28) -/
  tlen : BitVec 8
  /-- `REC`, the record register file (R30) -/
  record : RecFile
  /-- `TB`, the text buffer, addresses 0 to 31 (R38) -/
  tb : Memory
  /-- `FB`, the frame buffer, addresses 0x000 to 0x11F (R39, 20_memory.md R50) -/
  fb : Memory
  /-- MODEL's own: the inputs still to come, next first (10_state.md R23, 30_encoding.md R92). Log 2. -/
  inputs : List Input
  /-- MODEL's own: what the host has been shown, oldest first (20_memory.md R62 to R65). Log 3. -/
  replies : List Reply
  deriving DecidableEq, Repr

/-- Why a step could stop with a fault: for no reason at all. Every exception the spec describes is taken as a next state
(60_exceptions.md R176, R177), and nothing can hang or stop the block (R170; 00_scope.md R19 (5); 70_reset_and_hazards.md
R199). So there is no constructor, and no step answers a fault. Log 9. -/
inductive Fault : Type where
  deriving DecidableEq, Repr

/-- Why an instruction could have no meaning. -/
inductive Refusal where
  /-- Raised by an arm of `exec` that has no meaning yet; no arm is so. It would be safe: the machine stops. -/
  | notModelled (mnemonic : String)
  deriving DecidableEq, Repr

/-- The record register file after reset: every element of every register 0 (10_state.md R41). -/
def RecFile.zero : RecFile where
  a := {
    magic := 0
    options := 0
    position := 0
    origin := 0
    systemId := 0
    recordId := 0
    mac := Vector.replicate 6 0
    pad := 0
    details := 0
    name := Vector.replicate 10 0
    height := 0
    width := 0
    faceStyle := 0
    faceDetail := 0
    hairStyle := 0
    hairDetail := 0
    eye := 0
    eyebrow := 0
    nose := 0
    mouth := 0
    mustache := 0
    beard := 0
    glasses := 0
    mole := 0
    authorName := Vector.replicate 10 0
  }
  cUnknown := 0
  cChecksum := 0
  f := {
    magic := 0
    magicNumber := 0
    pad08 := Vector.replicate 8 0
    opaqueBytes := Vector.replicate 32 0
    comment := Vector.replicate 16 0
    pad50 := Vector.replicate 8 0
    region := 0
    country := 0
    area := 0
    language := 0
    platform := 0
    pad5D := Vector.replicate 3 0
    localSeed := 0
    hexId := Vector.replicate 13 0
    serial := Vector.replicate 16 0
    displayName := Vector.replicate 11 0
    padB8 := Vector.replicate 3 0
    pad11B := Vector.replicate 5 0
  }

/-- The machine right after reset: every piece of the block's state is zero (10_state.md R41, 70_reset_and_hazards.md
R190). No input is pending and nothing has been shown (logs 2 and 3). -/
def State.reset : State where
  x0 := 0
  x1 := 0
  x2 := 0
  err := 0
  eflags := 0
  crc := 0
  flen := 0
  tlen := 0
  record := RecFile.zero
  tb := []
  fb := []
  inputs := []
  replies := []

end Sys2Proof.Machine
end

