-- ==== Sys2Proof/Machine/Flags.lean ====
section
/-! DEFINITION. The status registers `ERR` and `EFLAGS` (10_state.md R24, R25; 60_exceptions.md R171). They are the only
flags: no operation has a carry, zero, sign or overflow flag (40_bitfield.md R105). -/

namespace Sys2Proof.Machine

/-- The exceptions the block can raise (60_exceptions.md R170 to R173). Code 4 (IOError) belongs to the file reader and is
never raised by the block (R174); code 5 is unassigned. -/
inductive Exc where
  | sizeError | rangeError | lengthError | illegalOp | contractFault
  deriving DecidableEq, Repr

/-- The status code of an exception (60_exceptions.md R171). -/
def Exc.code : Exc → BitVec 3
  | .sizeError => 1
  | .rangeError => 2
  | .lengthError => 3
  | .illegalOp => 6
  | .contractFault => 7

/-- The code of success (60_exceptions.md R171). -/
def okCode : BitVec 3 := 0

/-- `EFLAGS` with the sticky bit of a status code set (10_state.md R25). -/
def setSticky (flags : BitVec 8) (code : BitVec 3) : BitVec 8 := flags ||| 1#8 <<< code.toNat

/-- `EFLAGS` as it is read: bit 0 is hardwired 0 (10_state.md R25). -/
def readEflags (s : State) : BitVec 8 := s.eflags &&& 0xFE

end Sys2Proof.Machine
end

