-- ==== Sys2Proof/Machine/Ops.lean ====
section
/-! DEFINITION. The shared operations: bytes of a buffer, byte order, the presented window, the data registers, and the
outcome of an operation with the taking of an exception. -/

namespace Sys2Proof.Machine

/-! ## Memory -/

/-- What an address nothing has written reads as: every byte of `FB` and `TB` is 0 after reset (10_state.md R41). Log 1. -/
def Memory.unlisted : Byte := 0

/-- The byte at an address. -/
def Memory.read : Memory → Nat → Byte
  | [], _ => Memory.unlisted
  | (k, b) :: rest, a => if k = a then b else Memory.read rest a

/-- `MemRead(addr, n)`: the n bytes from `addr`, lowest address first (00_scope.md R17). -/
def Memory.readList (m : Memory) (addr n : Nat) : List Byte := (List.range n).map (fun i => m.read (addr + i))

/-- The cells that make the bytes of a list stand from `addr` up; a byte that reads as an unlisted one is not listed. -/
def Memory.cells (addr : Nat) (bs : List Byte) : Memory :=
  ((List.range bs.length).zip bs).filterMap
    (fun c => if c.2 = Memory.unlisted then none else some (addr + c.1, c.2))

/-- `MemWrite(addr, n, bs)`: the bytes of the list from `addr` up, lowest address first (00_scope.md R17). The cells below
and above the range written stay. -/
def Memory.writeList (m : Memory) (addr : Nat) (bs : List Byte) : Memory :=
  m.filter (fun c => decide (c.1 < addr)) ++ Memory.cells addr bs ++
    m.filter (fun c => decide (addr + bs.length ≤ c.1))

/-- Whether every listed address is at least `lo`, addresses rise strictly and no listed byte is an unlisted one's. -/
def Memory.wfFrom : Nat → Memory → Bool
  | _, [] => true
  | lo, (k, b) :: rest => decide (lo ≤ k) && (b != Memory.unlisted) && Memory.wfFrom (k + 1) rest

/-- The canonical form of a buffer's list. -/
def Memory.wf (m : Memory) : Bool := Memory.wfFrom 0 m

/-- Whether every listed address is one of the buffer's `size` addresses. -/
def Memory.inside (size : Nat) (m : Memory) : Bool := m.all (fun c => decide (c.1 < size))

/-! ## Byte order -/

/-- `le_dec`: the sum of `bs[i] * 256^i` (20_memory.md R54). -/
def leDec : List Byte → Nat
  | [] => 0
  | b :: bs => b.toNat + 256 * leDec bs

/-- `be_dec`: the sum of `bs[i] * 256^(k-1-i)` (20_memory.md R54), that is `le_dec` of the reversed list. -/
def beDec (bs : List Byte) : Nat := leDec bs.reverse

/-- `le_enc(k, v)`: `bs[i] = (v >> 8i) and 0xFF` (20_memory.md R55). -/
def leEnc (k v : Nat) : List Byte := (List.range k).map (fun i => BitVec.ofNat 8 (v >>> (8 * i)))

/-- `be_enc(k, v)`: `bs[i] = (v >> 8(k-1-i)) and 0xFF` (20_memory.md R55). -/
def beEnc (k v : Nat) : List Byte := (List.range k).map (fun i => BitVec.ofNat 8 (v >>> (8 * (k - 1 - i))))

/-- The integer a field's bytes stand for, in the field's byte order (20_memory.md R53); a single byte is itself. -/
def decInt : ByteOrder → List Byte → Nat
  | .single, bs => leDec bs
  | .big, bs => beDec bs
  | .little, bs => leDec bs

/-- The bytes of a field's integer, in the field's byte order (20_memory.md R53). -/
def encInt : ByteOrder → Nat → Nat → List Byte
  | .single, k, v => leEnc k v
  | .big, k, v => beEnc k v
  | .little, k, v => leEnc k v

/-! ## The buffers -/

/-- The size of the frame buffer, 0x120 bytes (20_memory.md R50), and of the text buffer, 32 bytes (10_state.md R38). -/
def fbSize : Nat := 0x120
def tbSize : Nat := 32

/-- The length of the presented window, `min(FLEN, 0x120)` (20_memory.md R51). -/
def State.window (s : State) : Nat := min s.flen.toNat fbSize

/-- The string the text buffer holds, `TB[0 .. min(TLEN, 32))` (10_state.md R38). -/
def State.textString (s : State) : List Byte := s.tb.readList 0 (min s.tlen.toNat tbSize)

/-- Whether a byte range is inside the contract of LDI, STI and CRC16: `a + k <= min(FLEN, 0x120)`, compared as
naturals (20_memory.md R52, 40_bitfield.md R105 (g)). -/
abbrev State.inWindow (s : State) (a k : Nat) : Prop := a + k ≤ s.window

/-! ## Data registers -/

/-- `H.GETX(i)` reads `x[i]` (20_memory.md R63). -/
def State.getX (s : State) (i : Fin 3) : XWord :=
  match i with
  | 0 => s.x0
  | 1 => s.x1
  | 2 => s.x2

/-- `H.SETX(i, v)` writes `x[i]` (20_memory.md R63). -/
def State.setX (s : State) (i : Fin 3) (v : XWord) : State :=
  match i with
  | 0 => { s with x0 := v }
  | 1 => { s with x1 := v }
  | 2 => { s with x2 := v }

/-- `x[2] <- zext_64(v)`: a number an operation produces goes to `x[2]` (10_state.md R22). -/
def State.result (s : State) (v : Nat) : State := { s with x2 := BitVec.ofNat 64 v }

/-! ## The outcome of an operation -/

/-- The answer of one step or one operation. -/
abbrev Answer := Host.Outcome State Fault Refusal

/-- TAKING AN EXCEPTION (60_exceptions.md R176): `ERR <- code`, `EFLAGS[code] <- 1`, and no other state changes. No state is
saved, no mode or mask changes and control goes nowhere; the block becomes idle exactly as after a success. There is
nothing to return from (R177): the next command runs normally. -/
def State.raise (s : State) (e : Exc) : State := { s with err := e.code, eflags := setSticky s.eflags e.code }

/-- The end of a successful operation: `ERR <- 0` (10_state.md R24). -/
def State.succeed (s : State) : State := { s with err := okCode }

/-- An operation on `s` ends: with the exception it raised, taken on the state it STARTED from (60_exceptions.md R176: an
operation that raises an exception writes nothing), or with the state it reached. -/
def complete (s : State) (r : Except Exc State) : Answer :=
  match r with
  | .error e => .next (s.raise e)
  | .ok t => .next t.succeed

/-- `if c then raise e`, before the rest of an operation. -/
def check (c : Bool) (e : Exc) (rest : Except Exc State) : Except Exc State := if c then .error e else rest

end Sys2Proof.Machine
end

