-- ==== Sys2Proof/Machine/Operands.lean ====
section
/-! DEFINITION. The operand forms: bit ranges of a backing word (40_bitfield.md R100, R101), registers, elements and
sub-fields of the record register file (42_record.md R129, R130), and its text fields (30_encoding.md R78). -/

namespace Sys2Proof.Machine

/-! ## Bit ranges -/

/-- `extract`: "the unsigned value of bits `[o, o+n)`", `(w >> o) mod 2^n` (40_bitfield.md R100). The contract is an
argument, so no value is defined outside it (93_implementation_defined.md U1). -/
def extract {W : Nat} (w : BitVec W) (o n : Nat) (_contract : InField W o n) : Nat := (w >>> o).toNat % 2 ^ n

/-- `M = ((2^n) - 1) << o` within W bits (40_bitfield.md R101). -/
def fieldMask (W o n : Nat) : BitVec W := BitVec.ofNat W (2 ^ n - 1) <<< o

/-- `pack`: RangeError if `v > 2^n - 1`, else `(w and not M) or (v << o)` (40_bitfield.md R101). -/
def pack {W : Nat} (w : BitVec W) (o n v : Nat) (_contract : InField W o n) : Except Exc (BitVec W) :=
  if v > 2 ^ n - 1 then .error .rangeError else .ok ((w &&& ~~~(fieldMask W o n)) ||| (BitVec.ofNat W v <<< o))

/-! ## Record registers -/

/-- `n` elements, element i given by `f i`. -/
def tabulate {α : Type} (n : Nat) (f : Nat → α) : Vector α n := ⟨((List.range n).map f).toArray, by simp⟩

/-- The element `i` of a record register, zero-extended (42_record.md R129); a scalar register has the one element 0.
The callers have checked `i` against the element count. -/
def RecFile.read (c : RecFile) (r : Reg) (i : Nat) : XWord :=
  match r with
  | .aMagic => c.a.magic.setWidth 64
  | .aOptions => c.a.options.setWidth 64
  | .aPosition => c.a.position.setWidth 64
  | .aOrigin => c.a.origin.setWidth 64
  | .aSystemId => c.a.systemId.setWidth 64
  | .aRecordId => c.a.recordId.setWidth 64
  | .aMac => (c.a.mac[i]?.getD 0).setWidth 64
  | .aPad => c.a.pad.setWidth 64
  | .aDetails => c.a.details.setWidth 64
  | .aName => (c.a.name[i]?.getD 0).setWidth 64
  | .aHeight => c.a.height.setWidth 64
  | .aWidth => c.a.width.setWidth 64
  | .aFaceStyle => c.a.faceStyle.setWidth 64
  | .aFaceDetail => c.a.faceDetail.setWidth 64
  | .aHairStyle => c.a.hairStyle.setWidth 64
  | .aHairDetail => c.a.hairDetail.setWidth 64
  | .aEye => c.a.eye.setWidth 64
  | .aEyebrow => c.a.eyebrow.setWidth 64
  | .aNose => c.a.nose.setWidth 64
  | .aMouth => c.a.mouth.setWidth 64
  | .aMustache => c.a.mustache.setWidth 64
  | .aBeard => c.a.beard.setWidth 64
  | .aGlasses => c.a.glasses.setWidth 64
  | .aMole => c.a.mole.setWidth 64
  | .aAuthorName => (c.a.authorName[i]?.getD 0).setWidth 64
  | .cUnknown => c.cUnknown.setWidth 64
  | .cChecksum => c.cChecksum.setWidth 64
  | .fMagic => c.f.magic.setWidth 64
  | .fMagicNumber => c.f.magicNumber.setWidth 64
  | .fPad08 => (c.f.pad08[i]?.getD 0).setWidth 64
  | .fOpaque => (c.f.opaqueBytes[i]?.getD 0).setWidth 64
  | .fComment => (c.f.comment[i]?.getD 0).setWidth 64
  | .fPad50 => (c.f.pad50[i]?.getD 0).setWidth 64
  | .fRegion => c.f.region.setWidth 64
  | .fCountry => c.f.country.setWidth 64
  | .fArea => c.f.area.setWidth 64
  | .fLanguage => c.f.language.setWidth 64
  | .fPlatform => c.f.platform.setWidth 64
  | .fPad5D => (c.f.pad5D[i]?.getD 0).setWidth 64
  | .fLocalSeed => c.f.localSeed.setWidth 64
  | .fHexId => (c.f.hexId[i]?.getD 0).setWidth 64
  | .fSerial => (c.f.serial[i]?.getD 0).setWidth 64
  | .fDisplayName => (c.f.displayName[i]?.getD 0).setWidth 64
  | .fPadB8 => (c.f.padB8[i]?.getD 0).setWidth 64
  | .fPad11B => (c.f.pad11B[i]?.getD 0).setWidth 64

/-- A write of the element `i` of a record register (42_record.md R130). The callers have checked that `v` fits the
element and `i` is below the element count. -/
def RecFile.write (c : RecFile) (r : Reg) (i : Nat) (v : XWord) : RecFile :=
  match r with
  | .aMagic => { c with a := { c.a with magic := v.setWidth 8 } }
  | .aOptions => { c with a := { c.a with options := v.setWidth 8 } }
  | .aPosition => { c with a := { c.a with position := v.setWidth 8 } }
  | .aOrigin => { c with a := { c.a with origin := v.setWidth 8 } }
  | .aSystemId => { c with a := { c.a with systemId := v.setWidth 64 } }
  | .aRecordId => { c with a := { c.a with recordId := v.setWidth 32 } }
  | .aMac => { c with a := { c.a with mac := c.a.mac.setIfInBounds i (v.setWidth 8) } }
  | .aPad => { c with a := { c.a with pad := v.setWidth 16 } }
  | .aDetails => { c with a := { c.a with details := v.setWidth 16 } }
  | .aName => { c with a := { c.a with name := c.a.name.setIfInBounds i (v.setWidth 16) } }
  | .aHeight => { c with a := { c.a with height := v.setWidth 8 } }
  | .aWidth => { c with a := { c.a with width := v.setWidth 8 } }
  | .aFaceStyle => { c with a := { c.a with faceStyle := v.setWidth 8 } }
  | .aFaceDetail => { c with a := { c.a with faceDetail := v.setWidth 8 } }
  | .aHairStyle => { c with a := { c.a with hairStyle := v.setWidth 8 } }
  | .aHairDetail => { c with a := { c.a with hairDetail := v.setWidth 8 } }
  | .aEye => { c with a := { c.a with eye := v.setWidth 32 } }
  | .aEyebrow => { c with a := { c.a with eyebrow := v.setWidth 32 } }
  | .aNose => { c with a := { c.a with nose := v.setWidth 16 } }
  | .aMouth => { c with a := { c.a with mouth := v.setWidth 16 } }
  | .aMustache => { c with a := { c.a with mustache := v.setWidth 16 } }
  | .aBeard => { c with a := { c.a with beard := v.setWidth 16 } }
  | .aGlasses => { c with a := { c.a with glasses := v.setWidth 16 } }
  | .aMole => { c with a := { c.a with mole := v.setWidth 16 } }
  | .aAuthorName => { c with a := { c.a with authorName := c.a.authorName.setIfInBounds i (v.setWidth 16) } }
  | .cUnknown => { c with cUnknown := v.setWidth 16 }
  | .cChecksum => { c with cChecksum := v.setWidth 16 }
  | .fMagic => { c with f := { c.f with magic := v.setWidth 32 } }
  | .fMagicNumber => { c with f := { c.f with magicNumber := v.setWidth 32 } }
  | .fPad08 => { c with f := { c.f with pad08 := c.f.pad08.setIfInBounds i (v.setWidth 8) } }
  | .fOpaque => { c with f := { c.f with opaqueBytes := c.f.opaqueBytes.setIfInBounds i (v.setWidth 8) } }
  | .fComment => { c with f := { c.f with comment := c.f.comment.setIfInBounds i (v.setWidth 16) } }
  | .fPad50 => { c with f := { c.f with pad50 := c.f.pad50.setIfInBounds i (v.setWidth 8) } }
  | .fRegion => { c with f := { c.f with region := v.setWidth 8 } }
  | .fCountry => { c with f := { c.f with country := v.setWidth 8 } }
  | .fArea => { c with f := { c.f with area := v.setWidth 8 } }
  | .fLanguage => { c with f := { c.f with language := v.setWidth 8 } }
  | .fPlatform => { c with f := { c.f with platform := v.setWidth 8 } }
  | .fPad5D => { c with f := { c.f with pad5D := c.f.pad5D.setIfInBounds i (v.setWidth 8) } }
  | .fLocalSeed => { c with f := { c.f with localSeed := v.setWidth 64 } }
  | .fHexId => { c with f := { c.f with hexId := c.f.hexId.setIfInBounds i (v.setWidth 16) } }
  | .fSerial => { c with f := { c.f with serial := c.f.serial.setIfInBounds i (v.setWidth 16) } }
  | .fDisplayName => { c with f := { c.f with displayName := c.f.displayName.setIfInBounds i (v.setWidth 16) } }
  | .fPadB8 => { c with f := { c.f with padB8 := c.f.padB8.setIfInBounds i (v.setWidth 8) } }
  | .fPad11B => { c with f := { c.f with pad11B := c.f.pad11B.setIfInBounds i (v.setWidth 8) } }

/-- The backing word of the group a sub-field belongs to (10_state.md R34). -/
def RecFile.groupWord (c : RecFile) (f : SubField) : BitVec f.row.group.elemBits :=
  (c.read f.row.group 0).setWidth f.row.group.elemBits

/-- What FLD.GET reads (42_record.md R129): a register, an array element, or `extract` on the group's backing word. -/
def RecFile.getField (c : RecFile) (f : FieldId) (idx : Nat) : XWord :=
  match f with
  | .reg r => c.read r idx
  | .sub f => BitVec.ofNat 64 (extract (c.groupWord f) f.row.o f.row.n f.inField)

/-- What FLD.SET writes (42_record.md R130): a register or an array element, RangeError if the value does not fit its
width; or the group's backing word by `pack`, which raises RangeError itself. -/
def RecFile.setField (c : RecFile) (f : FieldId) (idx : Nat) (v : XWord) : Except Exc RecFile :=
  match f with
  | .reg r => if v.toNat ≥ 2 ^ r.elemBits then .error .rangeError else .ok (c.write r idx v)
  | .sub f =>
    match pack (c.groupWord f) f.row.o f.row.n v.toNat f.inField with
    | .error e => .error e
    | .ok w => .ok (c.write f.row.group 0 (w.setWidth 64))

/-! ## Text fields -/

/-- The code units of a text field, in order (43_text.md R140). -/
def RecFile.units (c : RecFile) (t : TextField) : List CodeUnit :=
  match t with
  | .aName => c.a.name.toList
  | .aAuthorName => c.a.authorName.toList
  | .fComment => c.f.comment.toList
  | .fHexId => c.f.hexId.toList
  | .fSerial => c.f.serial.toList
  | .fDisplayName => c.f.displayName.toList

/-- All code units of a text field rewritten, unit i as `u i` (43_text.md R143). -/
def RecFile.setUnits (c : RecFile) (t : TextField) (u : Nat → CodeUnit) : RecFile :=
  match t with
  | .aName => { c with a := { c.a with name := tabulate _ u } }
  | .aAuthorName => { c with a := { c.a with authorName := tabulate _ u } }
  | .fComment => { c with f := { c.f with comment := tabulate _ u } }
  | .fHexId => { c with f := { c.f with hexId := tabulate _ u } }
  | .fSerial => { c with f := { c.f with serial := tabulate _ u } }
  | .fDisplayName => { c with f := { c.f with displayName := tabulate _ u } }

end Sys2Proof.Machine
end

