-- ==== Sys2Proof/Machine/BitField.lean ====
section
/-! DEFINITION. BitFieldCodec: BF.EXT (40_bitfield.md R103) and BF.PACK (R104). -/

namespace Sys2Proof.Machine

/-- BF.EXT on `s` (R103): the static contract, then the contract on `x[0]`, then `x[2] <- extract`. -/
def opExt (W o n : Nat) (s : State) : Except Exc State :=
  if h : InField W o n then
    check (s.x0.toNat ≥ 2 ^ W) .contractFault (.ok (s.result (extract (s.x0.setWidth W) o n h)))
  else .error .illegalOp

/-- BF.PACK on `s` (R104): the same two checks, then the document's RangeError, then `x[2] <- pack`. -/
def opPack (W o n : Nat) (s : State) : Except Exc State :=
  if h : InField W o n then
    check (s.x0.toNat ≥ 2 ^ W) .contractFault
      (match pack (s.x0.setWidth W) o n s.x1.toNat h with
        | .error e => .error e
        | .ok w => .ok (s.result w.toNat))
  else .error .illegalOp

/-- BF.EXT W, o, n (40_bitfield.md R103). -/
def execBfExt (W : Width) (o : BitVec 6) (n : BitVec 7) (s : State) : Answer :=
  complete s (opExt W.bits o.toNat n.toNat s)

/-- BF.PACK W, o, n (40_bitfield.md R104). -/
def execBfPack (W : Width) (o : BitVec 6) (n : BitVec 7) (s : State) : Answer :=
  complete s (opPack W.bits o.toNat n.toNat s)

end Sys2Proof.Machine
end

