-- ==== Sys2Proof/Machine/Record.lean ====
section
/-! DEFINITION. RecordCodec: `unpack` and `pack_rec` (42_record.md R120), the decode and encode operations (R121 to R128)
and field access (R129, R130). REC.ZERO, which computes a checksum, stands in Checksum.lean. -/

namespace Sys2Proof.Machine

/-! ## One field -/

/-- An integer or backing word from the frame bytes, at the register's offset from `base` in the register's byte order
(42_record.md R120). -/
def unpackInt {w : Nat} (bs : List Byte) (base : Nat) (r : Reg) : BitVec w :=
  BitVec.ofNat w (decInt r.order ((bs.drop (base + r.offset)).take r.size))

/-- A byte array: `REC.f[i] <- bs[a+i]` (42_record.md R120). -/
def unpackBytes {n : Nat} (bs : List Byte) (base : Nat) (r : Reg) : Vector Byte n :=
  tabulate n (fun i => bs.getD (base + r.offset + i) 0)

/-- A code-unit array: `REC.f[i] <- bs[a+2i] + 256 * bs[a+2i+1]` (42_record.md R120). -/
def unpackUnits {n : Nat} (bs : List Byte) (base : Nat) (r : Reg) : Vector CodeUnit n :=
  tabulate n (fun i => BitVec.ofNat 16
    ((bs.getD (base + r.offset + 2 * i) 0).toNat + 256 * (bs.getD (base + r.offset + 2 * i + 1) 0).toNat))

/-- The bytes of an integer or backing word, in the register's byte order (42_record.md R120). -/
def packInt {w : Nat} (r : Reg) (v : BitVec w) : List Byte := encInt r.order r.size v.toNat

/-- The bytes of a byte array, in order. -/
def packBytes {n : Nat} (v : Vector Byte n) : List Byte := v.toList

/-- The bytes of a code-unit array: each unit as its low byte, then its high byte (42_record.md R120). -/
def packUnits {n : Nat} (v : Vector CodeUnit n) : List Byte :=
  v.toList.flatMap (fun u => [BitVec.ofNat 8 u.toNat, BitVec.ofNat 8 (u.toNat / 256)])

/-! ## The record types -/

/-- `unpack(AvatarRecord, ...)` of the bytes from `base` (42_record.md R120; 30_encoding.md R73). -/
def unpackAvatar (bs : List Byte) (base : Nat) : AvatarRec where
  magic := unpackInt bs base .aMagic
  options := unpackInt bs base .aOptions
  position := unpackInt bs base .aPosition
  origin := unpackInt bs base .aOrigin
  systemId := unpackInt bs base .aSystemId
  recordId := unpackInt bs base .aRecordId
  mac := unpackBytes bs base .aMac
  pad := unpackInt bs base .aPad
  details := unpackInt bs base .aDetails
  name := unpackUnits bs base .aName
  height := unpackInt bs base .aHeight
  width := unpackInt bs base .aWidth
  faceStyle := unpackInt bs base .aFaceStyle
  faceDetail := unpackInt bs base .aFaceDetail
  hairStyle := unpackInt bs base .aHairStyle
  hairDetail := unpackInt bs base .aHairDetail
  eye := unpackInt bs base .aEye
  eyebrow := unpackInt bs base .aEyebrow
  nose := unpackInt bs base .aNose
  mouth := unpackInt bs base .aMouth
  mustache := unpackInt bs base .aMustache
  beard := unpackInt bs base .aBeard
  glasses := unpackInt bs base .aGlasses
  mole := unpackInt bs base .aMole
  authorName := unpackUnits bs base .aAuthorName

/-- `unpack` of the `F.` registers of a FriendDataRecord frame (42_record.md R120; 30_encoding.md R71). -/
def unpackFriend (bs : List Byte) : FriendRec where
  magic := unpackInt bs 0 .fMagic
  magicNumber := unpackInt bs 0 .fMagicNumber
  pad08 := unpackBytes bs 0 .fPad08
  opaqueBytes := unpackBytes bs 0 .fOpaque
  comment := unpackUnits bs 0 .fComment
  pad50 := unpackBytes bs 0 .fPad50
  region := unpackInt bs 0 .fRegion
  country := unpackInt bs 0 .fCountry
  area := unpackInt bs 0 .fArea
  language := unpackInt bs 0 .fLanguage
  platform := unpackInt bs 0 .fPlatform
  pad5D := unpackBytes bs 0 .fPad5D
  localSeed := unpackInt bs 0 .fLocalSeed
  hexId := unpackUnits bs 0 .fHexId
  serial := unpackUnits bs 0 .fSerial
  displayName := unpackUnits bs 0 .fDisplayName
  padB8 := unpackBytes bs 0 .fPadB8
  pad11B := unpackBytes bs 0 .fPad11B

/-- `pack_rec(AvatarRecord)`: every field's bytes, in layout order with no gap (42_record.md R120; 30_encoding.md R73). -/
def packAvatar (a : AvatarRec) : List Byte :=
  packInt .aMagic a.magic ++ packInt .aOptions a.options ++ packInt .aPosition a.position ++
    packInt .aOrigin a.origin ++ packInt .aSystemId a.systemId ++ packInt .aRecordId a.recordId ++
    packBytes a.mac ++ packInt .aPad a.pad ++ packInt .aDetails a.details ++ packUnits a.name ++
    packInt .aHeight a.height ++ packInt .aWidth a.width ++ packInt .aFaceStyle a.faceStyle ++
    packInt .aFaceDetail a.faceDetail ++ packInt .aHairStyle a.hairStyle ++
    packInt .aHairDetail a.hairDetail ++ packInt .aEye a.eye ++ packInt .aEyebrow a.eyebrow ++
    packInt .aNose a.nose ++ packInt .aMouth a.mouth ++ packInt .aMustache a.mustache ++
    packInt .aBeard a.beard ++ packInt .aGlasses a.glasses ++ packInt .aMole a.mole ++ packUnits a.authorName

/-- `pack_rec(ChecksummedAvatarRecord)` (42_record.md R120; 30_encoding.md R72). -/
def packChecksummed (c : RecFile) : List Byte :=
  packAvatar c.a ++ packInt .cUnknown c.cUnknown ++ packInt .cChecksum c.cChecksum

/-- The `F.` fields before the embedded record: bytes `[0, 0xBB)` (30_encoding.md R71). -/
def packFriendHead (f : FriendRec) : List Byte :=
  packInt .fMagic f.magic ++ packInt .fMagicNumber f.magicNumber ++ packBytes f.pad08 ++
    packBytes f.opaqueBytes ++ packUnits f.comment ++ packBytes f.pad50 ++ packInt .fRegion f.region ++
    packInt .fCountry f.country ++ packInt .fArea f.area ++ packInt .fLanguage f.language ++
    packInt .fPlatform f.platform ++ packBytes f.pad5D ++ packInt .fLocalSeed f.localSeed ++
    packUnits f.hexId ++ packUnits f.serial ++ packUnits f.displayName ++ packBytes f.padB8

/-- `pack_rec(FriendDataRecord)` (42_record.md R120; 30_encoding.md R71). -/
def packFriend (c : RecFile) : List Byte :=
  packFriendHead c.f ++ packChecksummed c ++ packBytes c.f.pad11B

/-- `unpack(AvatarRecord, bs)`: the 25 `A.` registers and nothing else (10_state.md R37). -/
def RecFile.loadAvatar (c : RecFile) (bs : List Byte) : RecFile := { c with a := unpackAvatar bs 0 }

/-- `unpack(ChecksummedAvatarRecord, bs)`, its record standing at `base`: the `A.` and `C.` registers (10_state.md R37). -/
def RecFile.loadChecksummed (c : RecFile) (bs : List Byte) (base : Nat) : RecFile :=
  { c with a := unpackAvatar bs base, cUnknown := unpackInt bs base .cUnknown, cChecksum := unpackInt bs base .cChecksum }

/-- `unpack(FriendDataRecord, bs)`: all 45 registers (10_state.md R37; 30_encoding.md R76). -/
def RecFile.loadFriend (c : RecFile) (bs : List Byte) : RecFile :=
  { c.loadChecksummed bs embedOffset with f := unpackFriend bs }

/-! ## Decode and encode -/

/-- The decode contract (42_record.md R121): SizeError exactly when `FLEN` is not the declared size, else `unpack` of the
frame's bytes; nothing else is checked. -/
def opDecode (size : Nat) (load : RecFile → List Byte → RecFile) (s : State) : Except Exc State :=
  check (s.flen.toNat ≠ size) .sizeError (.ok { s with record := load s.record (s.fb.readList 0 size) })

/-- The encode contract (42_record.md R122): the record's bytes as it stands, and `FLEN`; it cannot fail. -/
def opEncode (size : Nat) (bytes : RecFile → List Byte) (s : State) : Except Exc State :=
  .ok { s with fb := s.fb.writeList 0 (bytes s.record), flen := BitVec.ofNat 16 size }

/-- AVA.DEC (42_record.md R123). -/
def execAvaDec (s : State) : Answer := complete s (opDecode avatarSize RecFile.loadAvatar s)

/-- AVA.ENC (42_record.md R124). -/
def execAvaEnc (s : State) : Answer := complete s (opEncode avatarSize (fun c => packAvatar c.a) s)

/-- CAV.DEC (42_record.md R125). -/
def execCavDec (s : State) : Answer := complete s (opDecode checksummedSize (fun c bs => c.loadChecksummed bs 0) s)

/-- CAV.ENC (42_record.md R126). -/
def execCavEnc (s : State) : Answer := complete s (opEncode checksummedSize packChecksummed s)

/-- FRD.DEC (42_record.md R127). -/
def execFrdDec (s : State) : Answer := complete s (opDecode friendSize RecFile.loadFriend s)

/-- FRD.ENC (42_record.md R128). -/
def execFrdEnc (s : State) : Answer := complete s (opEncode friendSize packFriend s)

/-! ## Field access -/

/-- FLD.GET on `s` (42_record.md R129). An unassigned `fid` is no `FieldId`: the decoder refuses it. -/
def opGet (f : FieldId) (idx : Nat) (s : State) : Except Exc State :=
  check (idx ≥ f.count) .illegalOp (.ok { s with x2 := s.record.getField f idx })

/-- FLD.SET on `s` (42_record.md R130). -/
def opSet (f : FieldId) (idx : Nat) (s : State) : Except Exc State :=
  check (idx ≥ f.count) .illegalOp
    (match s.record.setField f idx s.x1 with
      | .error e => .error e
      | .ok c => .ok { s with record := c })

/-- FLD.GET f (42_record.md R129). -/
def execFldGet (f : FieldId) (idx : BitVec 5) (s : State) : Answer := complete s (opGet f idx.toNat s)

/-- FLD.SET f (42_record.md R130). -/
def execFldSet (f : FieldId) (idx : BitVec 5) (s : State) : Answer := complete s (opSet f idx.toNat s)

end Sys2Proof.Machine
end

