-- ==== Sys2Proof/Machine/Checksum.lean ====
section
/-! DEFINITION. ChecksumEngine: CRC16 (44_checksum.md R154), CRC.VFY (R155), CRC.FIX (R156), CHK.DGT (R159), and REC.ZERO
(42_record.md R131), the default construction with its checksum fixup. -/

namespace Sys2Proof.Machine

/-! ## The CRC -/

/-- One of the eight shifts of a byte (44_checksum.md R150; polynomial 0x1021). Log 7. -/
def crcShift (c : BitVec 16) : BitVec 16 := if c &&& 0x8000 ≠ 0 then (c <<< 1) ^^^ 0x1021 else c <<< 1

/-- A byte enters at the top of the register and is shifted through it (44_checksum.md R150). -/
def crcByte (c : BitVec 16) (b : Byte) : BitVec 16 :=
  crcShift (crcShift (crcShift (crcShift (crcShift (crcShift (crcShift (crcShift (c ^^^ b.setWidth 16 <<< 8))))))))

/-- `crc16(bs)`: initial register value 0, the bytes from the lowest offset, no final XOR (44_checksum.md R150). -/
def crc16 (bs : List Byte) : BitVec 16 := bs.foldl crcByte 0

/-- `cav_crc()`: the CRC of the first 0x5E bytes of the encoded checksummed avatar (44_checksum.md R151). -/
def RecFile.cavCrc (c : RecFile) : BitVec 16 := crc16 ((packChecksummed c).take crcRange)

/-- `verify` (44_checksum.md R152). -/
def RecFile.verify (c : RecFile) : Bool := c.cChecksum == c.cavCrc

/-- `fix` (44_checksum.md R153): the stored checksum is overwritten with the computed one, nothing else changes. -/
def RecFile.fix (c : RecFile) : RecFile := { c with cChecksum := c.cavCrc }

/-- CRC16 on `s` (44_checksum.md R154). -/
def opCrc16 (off len : Nat) (s : State) : Except Exc State :=
  check (¬ s.inWindow off len) .contractFault
    (let c := crc16 (s.fb.readList off len)
     .ok { s with crc := c, x2 := c.setWidth 64 })

/-- CRC.VFY on `s` (44_checksum.md R155): a mismatch is a result, not an exception (60_exceptions.md R179). -/
def opVerify (s : State) : Except Exc State :=
  .ok { s with crc := s.record.cavCrc, x2 := if s.record.verify then 1 else 0 }

/-- CRC.FIX on `s` (44_checksum.md R156). -/
def opFix (s : State) : Except Exc State := .ok { s with crc := s.record.cavCrc, record := s.record.fix }

/-- REC.ZERO on `s` (42_record.md R131): every register 0, then the checksum fixup. -/
def opZero (s : State) : Except Exc State := opFix { s with record := RecFile.zero }

/-- CRC16 off, len (44_checksum.md R154). -/
def execCrc16 (off len : BitVec 9) (s : State) : Answer := complete s (opCrc16 off.toNat len.toNat s)

/-- CRC.VFY (44_checksum.md R155). -/
def execCrcVfy (s : State) : Answer := complete s (opVerify s)

/-- CRC.FIX (44_checksum.md R156). -/
def execCrcFix (s : State) : Answer := complete s (opFix s)

/-- REC.ZERO (42_record.md R131). -/
def execRecZero (s : State) : Answer := complete s (opZero s)

/-! ## The check digit -/

/-- `check_digit(d)` (44_checksum.md R158): positions 2, 4, 6, 8 into `oddSum`, 3, 5, 7, 9 into `evenSum`,
`(10 - (3*evenSum + oddSum) mod 10) mod 10`; positions 0 and 1 are not summed. -/
def checkDigit (d : Nat → Nat) : Nat :=
  let oddSum := d 2 + d 4 + d 6 + d 8
  let evenSum := d 3 + d 5 + d 7 + d 9
  (10 - (3 * evenSum + oddSum) % 10) % 10

/-- Whether a character is one of the ASCII digits 0x30 to 0x39 (44_checksum.md R159). -/
def isDigit (b : Byte) : Bool := decide (0x30 ≤ b.toNat ∧ b.toNat ≤ 0x39)

/-- CHK.DGT on `s` (44_checksum.md R159): exactly ten characters, all digits, else ContractFault. -/
def opCheckDigit (s : State) : Except Exc State :=
  check (s.tlen.toNat ≠ 10) .contractFault
    (check (!(s.tb.readList 0 10).all isDigit) .contractFault
      (.ok (s.result (checkDigit (fun i => (s.tb.read i).toNat - 0x30)))))

/-- CHK.DGT (44_checksum.md R159). -/
def execChkDgt (s : State) : Answer := complete s (opCheckDigit s)

end Sys2Proof.Machine
end

