-- ==== Sys2Proof/Machine/Integer.lean ====
section
/-! DEFINITION. Integer marshalling: LDI.LE, LDI.BE, STI.LE, STI.BE (41_integer.md R110 to R114). -/

namespace Sys2Proof.Machine

/-- A load on `s` (41_integer.md R114): the bounds, then `x[2] <-` the integer, zero-extended. -/
def opLoad (order : ByteOrder) (k off : Nat) (s : State) : Except Exc State :=
  check (¬ s.inWindow off k) .contractFault (.ok (s.result (decInt order (s.fb.readList off k))))

/-- A store on `s` (41_integer.md R112): the bounds, then the range of the value, then the k bytes of `x[1]`. -/
def opStore (order : ByteOrder) (k off : Nat) (s : State) : Except Exc State :=
  check (¬ s.inWindow off k) .contractFault
    (check (s.x1.toNat ≥ 2 ^ (8 * k)) .rangeError
      (.ok { s with fb := s.fb.writeList off (encInt order k s.x1.toNat) }))

/-- LDI.LE k, off (41_integer.md R110). -/
def execLdiLe (k : Size) (off : BitVec 9) (s : State) : Answer := complete s (opLoad .little k.bytes off.toNat s)

/-- LDI.BE k, off (41_integer.md R111). -/
def execLdiBe (k : Size) (off : BitVec 9) (s : State) : Answer := complete s (opLoad .big k.bytes off.toNat s)

/-- STI.LE k, off (41_integer.md R112). -/
def execStiLe (k : Size) (off : BitVec 9) (s : State) : Answer := complete s (opStore .little k.bytes off.toNat s)

/-- STI.BE k, off (41_integer.md R113). -/
def execStiBe (k : Size) (off : BitVec 9) (s : State) : Answer := complete s (opStore .big k.bytes off.toNat s)

end Sys2Proof.Machine
end

