-- ==== Sys2Proof/Machine/Text.lean ====
section
/-! DEFINITION. The text view: TXT.DEC (43_text.md R142) and TXT.ENC (R143). -/

namespace Sys2Proof.Machine

/-- `text_dec` (43_text.md R140): the units before the first zero unit (all of them if there is none), each by its low
byte. -/
def textDec (units : List CodeUnit) : List Byte := (units.takeWhile (fun u => u != 0)).map (fun u => u.setWidth 8)

/-- Unit `i` of `text_enc` of the string `s` (43_text.md R141): the character with a zero high byte, and zero units after
the string's end. -/
def textUnit (s : List Byte) (i : Nat) : CodeUnit := if i < s.length then (s.getD i 0).setWidth 16 else 0

/-- `text_enc(c, s)` (43_text.md R141): LengthError if the string is longer than the slot, else c code units. -/
def textEnc (c : Nat) (s : List Byte) : Except Exc (List CodeUnit) :=
  if s.length > c then .error .lengthError else .ok ((List.range c).map (textUnit s))

/-- TXT.DEC on `s` (43_text.md R142): the string into `TB` from 0, its length into `TLEN`. -/
def opTextDec (t : TextField) (s : State) : Except Exc State :=
  let str := textDec (s.record.units t)
  .ok { s with tb := s.tb.writeList 0 str, tlen := BitVec.ofNat 8 str.length }

/-- TXT.ENC on `s` (43_text.md R143): LengthError when `TLEN` exceeds the capacity, else all units of the register. -/
def opTextEnc (t : TextField) (s : State) : Except Exc State :=
  check (s.tlen.toNat > t.capacity) .lengthError
    (.ok { s with record := s.record.setUnits t (textUnit (s.tb.readList 0 s.tlen.toNat)) })

/-- TXT.DEC t (43_text.md R142). -/
def execTxtDec (t : TextField) (s : State) : Answer := complete s (opTextDec t s)

/-- TXT.ENC t (43_text.md R143). -/
def execTxtEnc (t : TextField) (s : State) : Answer := complete s (opTextEnc t s)

end Sys2Proof.Machine
end

