-- ==== Sys2Proof/Machine/Dispatch.lean ====
section
/-! DEFINITION. The meaning of every instruction: one arm per constructor of `Instr`, one meaning per arm. -/

namespace Sys2Proof.Machine

def exec (i : Instr) (s : State) : Host.Outcome State Fault Refusal :=
  match i with
  | .bfExt W o n => Sys2Proof.Machine.execBfExt W o n s
  | .bfPack W o n => Sys2Proof.Machine.execBfPack W o n s
  | .ldiLe k off => Sys2Proof.Machine.execLdiLe k off s
  | .ldiBe k off => Sys2Proof.Machine.execLdiBe k off s
  | .stiLe k off => Sys2Proof.Machine.execStiLe k off s
  | .stiBe k off => Sys2Proof.Machine.execStiBe k off s
  | .avaDec => Sys2Proof.Machine.execAvaDec s
  | .avaEnc => Sys2Proof.Machine.execAvaEnc s
  | .cavDec => Sys2Proof.Machine.execCavDec s
  | .cavEnc => Sys2Proof.Machine.execCavEnc s
  | .frdDec => Sys2Proof.Machine.execFrdDec s
  | .frdEnc => Sys2Proof.Machine.execFrdEnc s
  | .fldGet f idx => Sys2Proof.Machine.execFldGet f idx s
  | .fldSet f idx => Sys2Proof.Machine.execFldSet f idx s
  | .recZero => Sys2Proof.Machine.execRecZero s
  | .txtDec t => Sys2Proof.Machine.execTxtDec t s
  | .txtEnc t => Sys2Proof.Machine.execTxtEnc t s
  | .crc16 off len => Sys2Proof.Machine.execCrc16 off len s
  | .crcVfy => Sys2Proof.Machine.execCrcVfy s
  | .crcFix => Sys2Proof.Machine.execCrcFix s
  | .chkDgt => Sys2Proof.Machine.execChkDgt s

end Sys2Proof.Machine
end

