-- ==== Sys2Proof/Machine/Port.lean ====
section
/-! DEFINITION. The host port (20_memory.md R60 to R66) and reset (70_reset_and_hazards.md R190): what each input does. -/

namespace Sys2Proof.Machine

/-- The host is shown something; no state of the block changes (20_memory.md R62 to R65). -/
def State.reveal (s : State) (r : Reply) : State := { s with replies := s.replies ++ [r] }

/-- H.FRAME(bs) (20_memory.md R61): the first 0x120 bytes into `FB`, `FLEN <- min(L, 0xFFFF)`. -/
def State.presentFrame (s : State) (bs : List Byte) : State :=
  { s with fb := s.fb.writeList 0 (bs.take fbSize), flen := BitVec.ofNat 16 (min bs.length 0xFFFF) }

/-- H.TEXT(bs) (20_memory.md R64): the first 32 bytes into `TB`, `TLEN <- min(L, 0xFF)`. -/
def State.presentText (s : State) (bs : List Byte) : State :=
  { s with tb := s.tb.writeList 0 (bs.take tbSize), tlen := BitVec.ofNat 8 (min bs.length 0xFF) }

/-- What H.READ shows (20_memory.md R62). -/
def State.frameReply (s : State) : Reply := .frame (s.fb.readList 0 s.window) s.flen

/-- What H.RTEXT shows (20_memory.md R64). -/
def State.textReply (s : State) : Reply := .text s.textString s.tlen

/-- What H.STATUS shows (20_memory.md R65). -/
def State.statusReply (s : State) : Reply := .status s.err (readEflags s) s.crc s.flen s.tlen

/-- Reset (70_reset_and_hazards.md R190): every piece of the block's state to its reset value. What the host has yet to
send and what it has been shown are not the block's state, and stay. Log 4. -/
def State.resetBlock (s : State) : State := { State.reset with inputs := s.inputs, replies := s.replies }

/-- H.ISSUE(cmd) (20_memory.md R66): the word is decoded and the operation performed to completion; a word that encodes no
operation is answered with IllegalOp (60_exceptions.md R172). -/
def issue (cmd : Command) (s : State) : Answer :=
  match decode cmd with
  | .ok i => exec i s
  | .error _ => .next (s.raise .illegalOp)

/-- What one input does. -/
def runInput (a : Input) (s : State) : Answer :=
  match a with
  | .frame bs => .next (s.presentFrame bs)
  | .read => .next (s.reveal s.frameReply)
  | .setx i v => .next (s.setX i v)
  | .getx i => .next (s.reveal (.xreg i (s.getX i)))
  | .movx i j => .next ((s.reveal (.xreg j (s.getX j))).setX i (s.getX j))
  | .text bs => .next (s.presentText bs)
  | .rtext => .next (s.reveal s.textReply)
  | .status => .next (s.reveal s.statusReply)
  | .issue cmd => issue cmd s
  | .reset => .next s.resetBlock

/-- One step: the next input is taken and done. With none pending the block is idle and waits, and nothing changes
(10_state.md R23, 20_memory.md R66). Log 2. -/
def runNext (s : State) : Answer :=
  match s.inputs with
  | [] => .next s
  | a :: rest => runInput a { s with inputs := rest }

/-- The host issues a command word next: H.ISSUE stands first among the inputs to come. Log 2. -/
def State.issueNext (s : State) (cmd : Command) : State := { s with inputs := .issue cmd :: s.inputs }

end Sys2Proof.Machine
end

