-- ==== Sys2Proof/Machine/Step.lean ====
section
/-! DEFINITION. The step function. The block has no program counter and fetches nothing (10_state.md R23): a step takes
the next input from outside (Port.lean). -/

namespace Sys2Proof.Machine

/-- One step of the machine. -/
def step (s : State) : Host.Outcome State Fault Refusal := runNext s

/-- The state in which the very next step is H.ISSUE of the word with these bits. A program is not stored in the machine:
the host supplies each command word (10_state.md R23, 20_memory.md R69). Logs 2 and 5. -/
def State.withFetchWord (s : State) (nbits w : Nat) : State := s.issueNext (commandOfBits nbits w)

end Sys2Proof.Machine
end

