-- ==== Sys2Proof/Config.lean ====
section
/-! DEFINITION. The parameters the spec leaves open (92_eei_decisions.md, "Open parameters, collected"). Each is an
opaque constant: nothing can be proved of its value. No operation of the block reads any of them. -/

namespace Sys2Proof

/-- `FRD_MAGIC` (00_scope.md R12; D13; U8): the value the host's magic check expects in `F.magic`. Log 8. -/
opaque Config.frdMagic : BitVec 32

/-- `FRD_VERSION` (00_scope.md R12; D13; U8): the value the host's magic check expects in `F.magic_number`. Log 8. -/
opaque Config.frdVersion : BitVec 32

/-- `CYCLES_PER_OP` (D23; U14): how long an operation takes. No rule reads it, and no definition here does. Log 8. -/
opaque Config.cyclesPerOp : Instr → Nat

end Sys2Proof
end

