-- ==== Sys2Proof/Safety.lean ====
section
/-! DEFINITION. The terms the claims use: legal words, what a frame says of a register, the state's invariant, which
exceptions an operation can raise, what the host can tell two states apart by, and the host's own magic check. -/

namespace Sys2Proof.Machine

/-! ## Legal words -/

/-- The operand field of `n` bits from bit `lo` of a command word, read as an unsigned integer (30_encoding.md R88). -/
def operand (cmd : Command) (lo n : Nat) : Nat := cmd.toNat / 2 ^ lo % 2 ^ n

/-- The static constraints of a format (30_encoding.md R82, R85, R86; the others have none). -/
def staticConstraint (f : Format) (cmd : Command) : Prop :=
  match f with
  | .Z => True
  | .B => 1 ≤ operand cmd 16 7 ∧ operand cmd 10 6 + operand cmd 16 7 ≤ 8 * 2 ^ operand cmd 8 2
  | .M => True
  | .C => True
  | .F => ∃ g : FieldId, g.code.toNat = operand cmd 8 8 ∧ operand cmd 16 5 < g.count
  | .T => operand cmd 8 3 ≤ 5

/-- A legal word (30_encoding.md R80): its `op` is one of the 21 codes, its unassigned bits are zero, and its operand
fields satisfy the static constraints. -/
def LegalWord (cmd : Command) : Prop :=
  ∃ row ∈ opcodeTable, cmd &&& row.format.mask = row.pattern ∧ staticConstraint row.format cmd

/-! ## What a frame says of a register -/

/-- The integer the `k` bytes from `a` stand for in a byte order (20_memory.md R54). -/
def intAt (order : ByteOrder) (byte : Nat → Byte) (a k : Nat) : Nat :=
  match order with
  | .big => ∑ i ∈ Finset.range k, (byte (a + i)).toNat * 256 ^ (k - 1 - i)
  | .little => ∑ i ∈ Finset.range k, (byte (a + i)).toNat * 256 ^ i
  | .single => ∑ i ∈ Finset.range k, (byte (a + i)).toNat * 256 ^ i

/-- The register `r` of `c` holds what the frame bytes say, its record standing at `base` (42_record.md R120). -/
def FieldHolds (c : RecFile) (r : Reg) (byte : Nat → Byte) (base : Nat) : Prop :=
  match r.row.kind with
  | .integer w order => (c.read r 0).toNat = intAt order byte (base + r.offset) (w / 8)
  | .group w order => (c.read r 0).toNat = intAt order byte (base + r.offset) (w / 8)
  | .byteArray n => ∀ i < n, (c.read r i).toNat = (byte (base + r.offset + i)).toNat
  | .unitArray n => ∀ i < n, (c.read r i).toNat =
      (byte (base + r.offset + 2 * i)).toNat + 256 * (byte (base + r.offset + 2 * i + 1)).toNat

/-! ## The invariant -/

/-- What holds of the state at all times: both buffers in canonical form and inside their addresses, the bits of `EFLAGS`
that nothing sets at 0 (10_state.md R25; 93_implementation_defined.md U10), and `ERR` a code that is produced and recorded
(60_exceptions.md R171). -/
structure State.Inv (s : State) : Prop where
  fb_wf : s.fb.wf = true
  fb_inside : s.fb.inside fbSize = true
  tb_wf : s.tb.wf = true
  tb_inside : s.tb.inside tbSize = true
  eflags_unused : s.eflags &&& 0x31 = 0
  err_produced : s.err ≠ 4 ∧ s.err ≠ 5
  err_recorded : s.err ≠ 0 → s.eflags.getLsbD s.err.toNat = true

/-- No fault was recorded since reset (10_state.md R25). -/
def State.NoFaultRecorded (s : State) : Prop := s.eflags = 0

/-! ## Exceptions -/

/-- Which exceptions an operation can raise, beyond IllegalOp of an illegal word (60_exceptions.md R175). -/
def canRaise : Instr → List Exc
  | .bfExt _ _ _ => [.contractFault]
  | .bfPack _ _ _ => [.rangeError, .contractFault]
  | .ldiLe _ _ => [.contractFault]
  | .ldiBe _ _ => [.contractFault]
  | .stiLe _ _ => [.rangeError, .contractFault]
  | .stiBe _ _ => [.rangeError, .contractFault]
  | .avaDec => [.sizeError]
  | .avaEnc => []
  | .cavDec => [.sizeError]
  | .cavEnc => []
  | .frdDec => [.sizeError]
  | .frdEnc => []
  | .fldGet _ _ => []
  | .fldSet _ _ => [.rangeError]
  | .recZero => []
  | .txtDec _ => []
  | .txtEnc _ => [.lengthError]
  | .crc16 _ _ => [.contractFault]
  | .crcVfy => []
  | .crcFix => []
  | .chkDgt => [.contractFault]

/-! ## What can be told apart -/

/-- Two states that agree on everything but the bytes of `FB` outside the presented window and those of `TB` at and beyond
`TLEN` (20_memory.md R51; 93_implementation_defined.md U13). -/
structure SameView (s t : State) : Prop where
  x0 : s.x0 = t.x0
  x1 : s.x1 = t.x1
  x2 : s.x2 = t.x2
  err : s.err = t.err
  eflags : s.eflags = t.eflags
  crc : s.crc = t.crc
  flen : s.flen = t.flen
  tlen : s.tlen = t.tlen
  record : s.record = t.record
  fb : ∀ a < s.window, s.fb.read a = t.fb.read a
  tb : ∀ a < min s.tlen.toNat tbSize, s.tb.read a = t.tb.read a
  inputs : s.inputs = t.inputs
  replies : s.replies = t.replies

/-! ## The host's magic check -/

/-- The caller-level check of the two magic fields (00_scope.md R9; 60_exceptions.md R179): the host compares what FLD.GET
gives it with the parameters. No operation of the block does it. -/
def magicMatches (c : RecFile) : Prop := c.f.magic = Config.frdMagic ∧ c.f.magicNumber = Config.frdVersion

end Sys2Proof.Machine
end

