-- ==== Sys2Proof/Certificates/Slice0/Obligations.lean ====
section
/-! DEFINITION. The statements for the provers. In every one a state written `{ s with … }` is `s` in all the fields it
does not name: that is the statement's frame. -/

section

open Sys2Proof Sys2Proof.Machine

/-- For every instruction, with every operand at every value its format admits, decode (encode i) is i. No bit of an
encoding is dropped. [derived: 30_encoding.md R80, 30_encoding.md R81, 30_encoding.md R82, 30_encoding.md R83,
30_encoding.md R84, 30_encoding.md R85, 30_encoding.md R86, 30_encoding.md R87] -/
def Obligations.DecodeOfEncode : Prop :=
  ∀ i : Instr, i.WellFormed → decode (encode i) = .ok i

/-- If a command word decodes to i then i is well-formed and encode i is that word: no two words have one meaning,
and no must-be-zero bit is ignored. [derived: 30_encoding.md R80, 30_encoding.md R89] -/
def Obligations.EncodeOfDecode : Prop :=
  ∀ (cmd : Command) (i : Instr), decode cmd = .ok i → i.WellFormed ∧ encode i = cmd

/-- For every 32-bit word: it decodes to some instruction exactly when its op is one of the 21 codes with the
format's must-be-zero bits zero (mask and match of the opcode map) and its operand fields, read from their bits,
satisfy the static constraints of the format. Legality is a function of the word alone. [stated: R80] -/
def Obligations.LegalWordsDecode : Prop :=
  ∀ cmd : Command, (∃ i, decode cmd = .ok i) ↔ LegalWord cmd

/-- In every state, H.ISSUE of a word that is not legal takes IllegalOp: ERR is 6, EFLAGS bit 6 is set and nothing
else changes. Whether a word is legal does not depend on the state. [stated: R172] -/
def Obligations.IllegalWordRaisesIllegalOp : Prop :=
  ∀ (s : State) (cmd : Command), ¬ LegalWord cmd →
    issue cmd s = .next { s with err := 6, eflags := s.eflags ||| 0x40 }

/-- Words of 95_test_vectors.md, one or more of each family, decode to the instruction each stands for. [derived:
95_test_vectors.md V-BF, 30_encoding.md R87] -/
def Obligations.SampleWordsDecode : Prop :=
  decode 0x00051501 = .ok (.bfExt .w16 5 5) ∧ decode 0x0004F302 = .ok (.bfPack .w64 60 4) ∧
    decode 0x00071808 = .ok (.ldiLe .b8 0x118) ∧ decode 0x0002010B = .ok (.stiBe .b2 1) ∧
    decode 0x00000012 = .ok .cavDec ∧ decode 0x00004B19 = .ok (.fldSet (.sub .detailsShirtColor) 0) ∧
    decode 0x001F2318 = .ok (.fldGet (.reg .fOpaque) 31) ∧ decode 0x00000520 = .ok (.txtDec .fDisplayName) ∧
    decode 0x00BCBB30 = .ok (.crc16 0xBB 0x5E) ∧ decode 0x00000032 = .ok .crcFix ∧ decode 0x00000038 = .ok .chkDgt

/-- A step does what its next input does (runInput) to the state with that input consumed; when that input is
H.ISSUE of a word that decodes to i, this is exec of i. (The queue of inputs is the model's own, log 2.)
[derived: 20_memory.md R66] -/
def Obligations.StepRunsTheDecodedInstruction : Prop :=
  (∀ (s : State) (a : Input) (rest : List Input), s.inputs = a :: rest → step s = runInput a { s with inputs := rest }) ∧
    ∀ (s : State) (cmd : Command) (rest : List Input) (i : Instr), s.inputs = .issue cmd :: rest → decode cmd = .ok i →
      step s = exec i { s with inputs := rest }

/-- With no input to come, a step changes nothing: the block waits for the host. That waiting is a step is the
model's choice, log 2. [derived: 10_state.md R23] -/
def Obligations.IdleBlockWaits : Prop :=
  ∀ s : State, s.inputs = [] → step s = .next s

/-- From every state the step answers a next state, whatever the input, and so does every operation: every operation
terminates, and an error is fatal to the operation, never to the block. [derived: 60_exceptions.md R170,
70_reset_and_hazards.md R199] -/
def Obligations.EveryStepAnswersNext : Prop :=
  (∀ s : State, ∃ t, step s = .next t) ∧ ∀ (i : Instr) (s : State), ∃ t, exec i s = .next t

/-- Inside the contract, extract is (w >> o) mod 2^n, is below 2^n, and its bit j is bit o+j of the backing word for
j below n. [stated: R100] -/
def Obligations.ExtractIsTheBitRange : Prop :=
  ∀ (W : Nat) (w : BitVec W) (o n : Nat) (h : InField W o n),
    extract w o n h = (w.toNat >>> o) % 2 ^ n ∧ extract w o n h < 2 ^ n ∧
    ∀ j, (extract w o n h).testBit j = (decide (j < n) && w.getLsbD (o + j))

/-- Inside the contract: a value above 2^n - 1 gives RangeError; otherwise the result has the value's bits in [o,
o+n) and the backing word's bits elsewhere, and its value is (w and not M) or (v << o). [stated: R101] -/
def Obligations.PackReplacesTheBitRange : Prop :=
  ∀ (W : Nat) (w : BitVec W) (o n v : Nat) (h : InField W o n),
    (2 ^ n - 1 < v → pack w o n v h = .error .rangeError) ∧
    (v ≤ 2 ^ n - 1 → ∃ p, pack w o n v h = .ok p ∧
      p.toNat = (w.toNat &&& (2 ^ W - 1 - (2 ^ n - 1) * 2 ^ o)) ||| (v <<< o) ∧
      ∀ j < W, p.getLsbD j = if o ≤ j ∧ j < o + n then v.testBit (j - o) else w.getLsbD j)

/-- (a) extracting what was packed gives the value; (b) pack leaves the bits outside its range; (c) packing what was
extracted changes nothing; (d) packing one of two disjoint ranges does not change what extract returns for the
other; (e) with o = 0 and n = W, extract returns the word and pack the value. ((c), (d) and (e) are inferences
the spec marks as its own.) [derived: 40_bitfield.md R102] -/
def Obligations.BitFieldLaws : Prop :=
  ∀ (W : Nat) (w : BitVec W) (o n : Nat) (h : InField W o n),
    (∀ v < 2 ^ n, ∃ p, pack w o n v h = .ok p ∧ extract p o n h = v ∧
      (∀ j < W, j < o ∨ o + n ≤ j → p.getLsbD j = w.getLsbD j) ∧
      (∀ (o' n' : Nat) (h' : InField W o' n'), o' + n' ≤ o ∨ o + n ≤ o' → extract p o' n' h' = extract w o' n' h')) ∧
    pack w o n (extract w o n h) h = .ok w ∧
    (o = 0 → n = W → extract w o n h = w.toNat ∧ ∀ v < 2 ^ n, pack w o n v h = .ok (BitVec.ofNat W v))

/-- BF.EXT with a legal field and x[0] below 2^W puts (x[0] >> o) mod 2^n into x[2], sets ERR to 0 and changes
nothing else; with x[0] at or above 2^W it raises ContractFault; outside the static contract IllegalOp; nothing
else changes then. Its word is 0x01 | wsel << 8 | o << 10 | n << 16. [stated: R103] -/
def Obligations.BfExtRule : Prop :=
  ∀ (W : Width) (o : BitVec 6) (n : BitVec 7) (s : State),
    (encode (.bfExt W o n)).toNat = 0x01 + W.code.toNat * 2 ^ 8 + o.toNat * 2 ^ 10 + n.toNat * 2 ^ 16 ∧
    (1 ≤ n.toNat → o.toNat + n.toNat ≤ W.bits → s.x0.toNat < 2 ^ W.bits → exec (.bfExt W o n) s =
      .next { s with x2 := BitVec.ofNat 64 (s.x0.toNat / 2 ^ o.toNat % 2 ^ n.toNat), err := 0 }) ∧
    (1 ≤ n.toNat → o.toNat + n.toNat ≤ W.bits → 2 ^ W.bits ≤ s.x0.toNat → exec (.bfExt W o n) s =
      .next { s with err := 7, eflags := s.eflags ||| 0x80 }) ∧
    (¬ (1 ≤ n.toNat ∧ o.toNat + n.toNat ≤ W.bits) → exec (.bfExt W o n) s =
      .next { s with err := 6, eflags := s.eflags ||| 0x40 })

/-- BF.PACK with a legal field, x[0] below 2^W and x[1] at most 2^n - 1 puts (x[0] and not M) or (x[1] << o) into
x[2], sets ERR to 0 and changes nothing else. IllegalOp outside the static contract, then ContractFault for x[0]
at or above 2^W whatever x[1] is, then RangeError for x[1] above 2^n - 1; nothing else changes then. [stated:
R104] -/
def Obligations.BfPackRule : Prop :=
  ∀ (W : Width) (o : BitVec 6) (n : BitVec 7) (s : State),
    (encode (.bfPack W o n)).toNat = 0x02 + W.code.toNat * 2 ^ 8 + o.toNat * 2 ^ 10 + n.toNat * 2 ^ 16 ∧
    (1 ≤ n.toNat → o.toNat + n.toNat ≤ W.bits → s.x0.toNat < 2 ^ W.bits → s.x1.toNat ≤ 2 ^ n.toNat - 1 →
      exec (.bfPack W o n) s = .next { s with
        x2 := (s.x0 &&& ~~~(BitVec.ofNat 64 (2 ^ n.toNat - 1) <<< o.toNat)) ||| (s.x1 <<< o.toNat), err := 0 }) ∧
    (1 ≤ n.toNat → o.toNat + n.toNat ≤ W.bits → s.x0.toNat < 2 ^ W.bits → 2 ^ n.toNat - 1 < s.x1.toNat →
      exec (.bfPack W o n) s = .next { s with err := 2, eflags := s.eflags ||| 0x04 }) ∧
    (1 ≤ n.toNat → o.toNat + n.toNat ≤ W.bits → 2 ^ W.bits ≤ s.x0.toNat →
      exec (.bfPack W o n) s = .next { s with err := 7, eflags := s.eflags ||| 0x80 }) ∧
    (¬ (1 ≤ n.toNat ∧ o.toNat + n.toNat ≤ W.bits) →
      exec (.bfPack W o n) s = .next { s with err := 6, eflags := s.eflags ||| 0x40 })

/-- For every byte list: le_dec is the sum of bs[i] * 256^i, be_dec the sum of bs[i] * 256^(k-1-i), and both are
below 256^k; for one byte both give it. (The spec marks these definitions as general knowledge, not in its
source; log 7.) [derived: 20_memory.md R54] -/
def Obligations.IntegerDecodeSums : Prop :=
  (∀ bs : List Byte,
      leDec bs = ∑ i ∈ Finset.range bs.length, (bs.getD i 0).toNat * 256 ^ i ∧
      beDec bs = ∑ i ∈ Finset.range bs.length, (bs.getD i 0).toNat * 256 ^ (bs.length - 1 - i) ∧
      leDec bs < 256 ^ bs.length ∧ beDec bs < 256 ^ bs.length) ∧
    ∀ b : Byte, leDec [b] = b.toNat ∧ beDec [b] = b.toNat

/-- For every k and v below 256^k: le_enc and be_enc give k bytes, byte i being (v >> 8i) and 0xFF, or (v >>
8(k-1-i)) and 0xFF; decoding them gives v back. For every byte list, encoding its value at its length gives the
list back. (The spec marks these as its own inference and as general knowledge; log 7.) [derived: 20_memory.md
R55] -/
def Obligations.IntegerEncodeInverts : Prop :=
  (∀ k v : Nat, v < 256 ^ k →
      (leEnc k v).length = k ∧ (beEnc k v).length = k ∧
      (∀ i < k, ((leEnc k v).getD i 0).toNat = (v >>> (8 * i)) &&& 0xFF ∧
        ((beEnc k v).getD i 0).toNat = (v >>> (8 * (k - 1 - i))) &&& 0xFF) ∧
      leDec (leEnc k v) = v ∧ beDec (beEnc k v) = v) ∧
    ∀ bs : List Byte, leEnc bs.length (leDec bs) = bs ∧ beEnc bs.length (beDec bs) = bs

/-- With off + k inside min(FLEN, 0x120), LDI.LE puts the sum of FB[off+i] * 256^i into x[2] and LDI.BE the sum of
FB[off+i] * 256^(k-1-i), zero-extended; ERR is 0 and nothing else changes. Otherwise ContractFault and nothing
else changes. No offset needs alignment. [stated: R110, R111] -/
def Obligations.LoadRules : Prop :=
  ∀ (k : Size) (off : BitVec 9) (s : State),
    (encode (.ldiLe k off)).toNat = 0x08 + off.toNat * 2 ^ 8 + k.code.toNat * 2 ^ 17 ∧
    (off.toNat + k.bytes ≤ min s.flen.toNat 0x120 → exec (.ldiLe k off) s = .next { s with
      x2 := BitVec.ofNat 64 (∑ i ∈ Finset.range k.bytes, (s.fb.read (off.toNat + i)).toNat * 256 ^ (i)), err := 0 }) ∧
    (min s.flen.toNat 0x120 < off.toNat + k.bytes → exec (.ldiLe k off) s =
      .next { s with err := 7, eflags := s.eflags ||| 0x80 }) ∧
    (encode (.ldiBe k off)).toNat = 0x09 + off.toNat * 2 ^ 8 + k.code.toNat * 2 ^ 17 ∧
    (off.toNat + k.bytes ≤ min s.flen.toNat 0x120 → exec (.ldiBe k off) s = .next { s with
      x2 := BitVec.ofNat 64 (∑ i ∈ Finset.range k.bytes, (s.fb.read (off.toNat + i)).toNat * 256 ^ (k.bytes - 1 - i)), err := 0 }) ∧
    (min s.flen.toNat 0x120 < off.toNat + k.bytes → exec (.ldiBe k off) s =
      .next { s with err := 7, eflags := s.eflags ||| 0x80 })

/-- In bounds and with x[1] below 2^(8k), STI.LE stores (x[1] >> 8i) and 0xFF at off+i, STI.BE (x[1] >> 8(k-1-i))
and 0xFF; every byte outside [off, off+k) and all other state but ERR (0) is unchanged. A value too large raises
RangeError, a range out of bounds ContractFault whatever the value; nothing else changes then. [derived:
41_integer.md R112, 41_integer.md R113] -/
def Obligations.StoreRules : Prop :=
  ∀ (k : Size) (off : BitVec 9) (s : State),
    (encode (.stiLe k off)).toNat = 0x0A + off.toNat * 2 ^ 8 + k.code.toNat * 2 ^ 17 ∧
    (off.toNat + k.bytes ≤ min s.flen.toNat 0x120 → s.x1.toNat < 2 ^ (8 * k.bytes) →
      ∃ m, exec (.stiLe k off) s = .next { s with fb := m, err := 0 } ∧
        (∀ i < k.bytes, (m.read (off.toNat + i)).toNat = (s.x1.toNat >>> (8 * i)) &&& 0xFF) ∧
        ∀ a, a < off.toNat ∨ off.toNat + k.bytes ≤ a → m.read a = s.fb.read a) ∧
    (off.toNat + k.bytes ≤ min s.flen.toNat 0x120 → 2 ^ (8 * k.bytes) ≤ s.x1.toNat → exec (.stiLe k off) s =
      .next { s with err := 2, eflags := s.eflags ||| 0x04 }) ∧
    (min s.flen.toNat 0x120 < off.toNat + k.bytes → exec (.stiLe k off) s =
      .next { s with err := 7, eflags := s.eflags ||| 0x80 }) ∧
    (encode (.stiBe k off)).toNat = 0x0B + off.toNat * 2 ^ 8 + k.code.toNat * 2 ^ 17 ∧
    (off.toNat + k.bytes ≤ min s.flen.toNat 0x120 → s.x1.toNat < 2 ^ (8 * k.bytes) →
      ∃ m, exec (.stiBe k off) s = .next { s with fb := m, err := 0 } ∧
        (∀ i < k.bytes, (m.read (off.toNat + i)).toNat = (s.x1.toNat >>> (8 * (k.bytes - 1 - i))) &&& 0xFF) ∧
        ∀ a, a < off.toNat ∨ off.toNat + k.bytes ≤ a → m.read a = s.fb.read a) ∧
    (off.toNat + k.bytes ≤ min s.flen.toNat 0x120 → 2 ^ (8 * k.bytes) ≤ s.x1.toNat → exec (.stiBe k off) s =
      .next { s with err := 2, eflags := s.eflags ||| 0x04 }) ∧
    (min s.flen.toNat 0x120 < off.toNat + k.bytes → exec (.stiBe k off) s =
      .next { s with err := 7, eflags := s.eflags ||| 0x80 })

/-- After a successful STI.LE (STI.BE) of size k at off, LDI.LE (LDI.BE) of the same size and offset succeeds and
returns the x[1] that was stored. (An inference the spec marks as its own.) [derived: 41_integer.md R113,
20_memory.md R67] -/
def Obligations.StoreThenLoadReturnsTheValue : Prop :=
  ∀ (k : Size) (off : BitVec 9) (s : State),
    off.toNat + k.bytes ≤ min s.flen.toNat 0x120 → s.x1.toNat < 2 ^ (8 * k.bytes) →
    (∃ t u, exec (.stiLe k off) s = .next t ∧ exec (.ldiLe k off) t = .next u ∧ u.err = 0 ∧ u.x2 = s.x1) ∧
    (∃ t u, exec (.stiBe k off) s = .next t ∧ exec (.ldiBe k off) t = .next u ∧ u.err = 0 ∧ u.x2 = s.x1)

/-- With FLEN = 0x5C every A register holds what its bytes of FB say in its own byte order and nothing else changes
but ERR (0); with any other FLEN SizeError is raised and nothing else changes. The word is 0x10. [stated: R123] -/
def Obligations.AvaDecRule : Prop :=
  ∀ s : State, encode .avaDec = 0x10 ∧
    (s.flen.toNat = 0x5C → ∃ a, exec .avaDec s = .next { s with record := { s.record with a := a }, err := 0 } ∧
      ∀ r ∈ Reg.avatar, FieldHolds { s.record with a := a } r s.fb.read 0) ∧
    (s.flen.toNat ≠ 0x5C → exec .avaDec s = .next { s with err := 1, eflags := s.eflags ||| 0x02 })

/-- With FLEN = 0x60 every A register and both C registers hold what their bytes of FB say, the stored checksum as
it is, and nothing else changes but ERR (0); with any other FLEN SizeError is raised and nothing else changes.
The word is 0x12. [stated: R125] -/
def Obligations.CavDecRule : Prop :=
  ∀ s : State, encode .cavDec = 0x12 ∧
    (s.flen.toNat = 0x60 → ∃ c, exec .cavDec s = .next { s with record := c, err := 0 } ∧ c.f = s.record.f ∧
      ∀ r ∈ Reg.avatar ++ Reg.wrapper, FieldHolds c r s.fb.read 0) ∧
    (s.flen.toNat ≠ 0x60 → exec .cavDec s = .next { s with err := 1, eflags := s.eflags ||| 0x02 })

/-- With FLEN = 0x120 every F register holds what its bytes of FB say (little-endian), every A and C register what
the bytes from 0xBB say, and nothing else changes but ERR (0); with any other FLEN (0x11F too) SizeError is
raised and nothing else changes. The word is 0x14. [stated: R127] -/
def Obligations.FrdDecRule : Prop :=
  ∀ s : State, encode .frdDec = 0x14 ∧
    (s.flen.toNat = 0x120 → ∃ c, exec .frdDec s = .next { s with record := c, err := 0 } ∧
      (∀ r ∈ Reg.friend, FieldHolds c r s.fb.read 0) ∧
      ∀ r ∈ Reg.avatar ++ Reg.wrapper, FieldHolds c r s.fb.read 0xBB) ∧
    (s.flen.toNat ≠ 0x120 → exec .frdDec s = .next { s with err := 1, eflags := s.eflags ||| 0x02 })

/-- AVA.ENC writes FB[0, 0x5C) so that every A register is what its bytes say, sets FLEN to 0x5C and ERR to 0, and
changes nothing else: every byte from 0x5C on is as before. It raises nothing. The word is 0x11. [stated: R124] -/
def Obligations.AvaEncRule : Prop :=
  ∀ s : State, encode .avaEnc = 0x11 ∧
    ∃ m, exec .avaEnc s = .next { s with fb := m, flen := 0x5C, err := 0 } ∧
      (∀ r ∈ Reg.avatar, FieldHolds s.record r m.read 0) ∧ ∀ a, 0x5C ≤ a → m.read a = s.fb.read a

/-- CAV.ENC writes FB[0, 0x60) so that every A and C register is what its bytes say, the checksum as it is stored,
sets FLEN to 0x60 and ERR to 0, and changes nothing else. It raises nothing. The word is 0x13. [stated: R126] -/
def Obligations.CavEncRule : Prop :=
  ∀ s : State, encode .cavEnc = 0x13 ∧
    ∃ m, exec .cavEnc s = .next { s with fb := m, flen := 0x60, err := 0 } ∧
      (∀ r ∈ Reg.avatar ++ Reg.wrapper, FieldHolds s.record r m.read 0) ∧ ∀ a, 0x60 ≤ a → m.read a = s.fb.read a

/-- FRD.ENC writes FB[0, 0x120) so that every F register is what its bytes say and every A and C register what the
bytes from 0xBB say, sets FLEN to 0x120 and ERR to 0, and changes nothing else. It raises nothing. The word is
0x15. [stated: R128] -/
def Obligations.FrdEncRule : Prop :=
  ∀ s : State, encode .frdEnc = 0x15 ∧
    ∃ m, exec .frdEnc s = .next { s with fb := m, flen := 0x120, err := 0 } ∧
      (∀ r ∈ Reg.friend, FieldHolds s.record r m.read 0) ∧
      (∀ r ∈ Reg.avatar ++ Reg.wrapper, FieldHolds s.record r m.read 0xBB) ∧
      ∀ a, 0x120 ≤ a → m.read a = s.fb.read a

/-- For each of the three record types and every frame of its exact size, decode then encode leaves FLEN and every
byte of FB as they were, padding, reserved, opaque and undeclared bits included. [derived: 42_record.md R132
(a)] -/
def Obligations.DecodeThenEncodeKeepsTheFrame : Prop :=
  ∀ s : State,
    (s.flen.toNat = 0x5C → ∃ t u, exec .avaDec s = .next t ∧ exec .avaEnc t = .next u ∧ u.flen = s.flen ∧
      ∀ a, u.fb.read a = s.fb.read a) ∧
    (s.flen.toNat = 0x60 → ∃ t u, exec .cavDec s = .next t ∧ exec .cavEnc t = .next u ∧ u.flen = s.flen ∧
      ∀ a, u.fb.read a = s.fb.read a) ∧
    (s.flen.toNat = 0x120 → ∃ t u, exec .frdDec s = .next t ∧ exec .frdEnc t = .next u ∧ u.flen = s.flen ∧
      ∀ a, u.fb.read a = s.fb.read a)

/-- For each of the three record types and every contents of the register file, encode then decode succeeds and
leaves all 45 registers unchanged. [derived: 42_record.md R132 (b)] -/
def Obligations.EncodeThenDecodeKeepsTheRecord : Prop :=
  ∀ s : State,
    (∃ t u, exec .avaEnc s = .next t ∧ exec .avaDec t = .next u ∧ u.err = 0 ∧ u.record = s.record) ∧
    (∃ t u, exec .cavEnc s = .next t ∧ exec .cavDec t = .next u ∧ u.err = 0 ∧ u.record = s.record) ∧
    (∃ t u, exec .frdEnc s = .next t ∧ exec .frdDec t = .next u ∧ u.err = 0 ∧ u.record = s.record)

/-- From any state, the 0x60 bytes FRD.ENC writes at 0xBB are those CAV.ENC writes at 0, and the first 0x5C of these
are those AVA.ENC writes. (An inference the spec marks as its own.) [derived: 42_record.md R132 (c),
30_encoding.md R76] -/
def Obligations.EncodingsNest : Prop :=
  ∀ s : State, ∃ ta tc tf, exec .avaEnc s = .next ta ∧ exec .cavEnc s = .next tc ∧ exec .frdEnc s = .next tf ∧
    (∀ i < 0x60, tf.fb.read (0xBB + i) = tc.fb.read i) ∧ ∀ i < 0x5C, tc.fb.read i = ta.fb.read i

/-- With idx below the element count, FLD.GET of a register puts its element, zero-extended, into x[2]; FLD.GET of a
sub-field puts (backing word >> o) mod 2^n there; ERR is 0 and nothing else changes. With idx at or above the
count IllegalOp is raised and nothing else changes. The word is 0x18 | fid << 8 | idx << 16. [stated: R129] -/
def Obligations.FldGetRule : Prop :=
  ∀ (idx : BitVec 5) (s : State),
    (∀ f, (encode (.fldGet f idx)).toNat = 0x18 + f.code.toNat * 2 ^ 8 + idx.toNat * 2 ^ 16) ∧
    (∀ r : Reg, idx.toNat < r.count → exec (.fldGet (.reg r) idx) s =
      .next { s with x2 := s.record.read r idx.toNat, err := 0 }) ∧
    (∀ f : SubField, idx.toNat = 0 → exec (.fldGet (.sub f) idx) s = .next { s with
      x2 := BitVec.ofNat 64 ((s.record.read f.row.group 0).toNat / 2 ^ f.row.o % 2 ^ f.row.n), err := 0 }) ∧
    (∀ f, f.count ≤ idx.toNat → exec (.fldGet f idx) s = .next { s with err := 6, eflags := s.eflags ||| 0x40 })

/-- With idx below the count and x[1] inside the width: FLD.SET of a register makes that element read x[1] and
leaves every other element of every register; FLD.SET of a sub-field makes bits [o, o+n) of the backing word
x[1]'s and leaves its other bits and every other register; ERR is 0 and nothing else changes. A value too large
raises RangeError, idx at or above the count IllegalOp; nothing else changes then. [stated: R130] -/
def Obligations.FldSetRule : Prop :=
  ∀ (idx : BitVec 5) (s : State),
    (∀ f, (encode (.fldSet f idx)).toNat = 0x19 + f.code.toNat * 2 ^ 8 + idx.toNat * 2 ^ 16) ∧
    (∀ r : Reg, idx.toNat < r.count → s.x1.toNat < 2 ^ r.elemBits →
      ∃ c, exec (.fldSet (.reg r) idx) s = .next { s with record := c, err := 0 } ∧ c.read r idx.toNat = s.x1 ∧
        ∀ (r' : Reg) (i : Nat), i < r'.count → r' ≠ r ∨ i ≠ idx.toNat → c.read r' i = s.record.read r' i) ∧
    (∀ f : SubField, idx.toNat = 0 → s.x1.toNat < 2 ^ f.row.n →
      ∃ c, exec (.fldSet (.sub f) idx) s = .next { s with record := c, err := 0 } ∧
        (∀ j < f.row.n, (c.read f.row.group 0).getLsbD (f.row.o + j) = s.x1.getLsbD j) ∧
        (∀ j, j < f.row.o ∨ f.row.o + f.row.n ≤ j →
          (c.read f.row.group 0).getLsbD j = (s.record.read f.row.group 0).getLsbD j) ∧
        ∀ (r' : Reg) (i : Nat), i < r'.count → r' ≠ f.row.group → c.read r' i = s.record.read r' i) ∧
    (∀ f, idx.toNat < f.count → 2 ^ f.bits ≤ s.x1.toNat → exec (.fldSet f idx) s =
      .next { s with err := 2, eflags := s.eflags ||| 0x04 }) ∧
    (∀ f, f.count ≤ idx.toNat → exec (.fldSet f idx) s = .next { s with err := 6, eflags := s.eflags ||| 0x40 })

/-- If FLD.SET of a field succeeds (ERR 0), FLD.GET of the same field and index then returns the x[1] that was
written, and leaves the registers. [derived: 42_record.md R129, 42_record.md R130, 10_state.md R34] -/
def Obligations.FldSetThenGet : Prop :=
  ∀ (f : FieldId) (idx : BitVec 5) (s t : State), exec (.fldSet f idx) s = .next t → t.err = 0 →
    ∃ u, exec (.fldGet f idx) t = .next u ∧ u.err = 0 ∧ u.x2 = s.x1 ∧ u.record = t.record

/-- REC.ZERO makes every element of every register 0, C.checksum included, since the CRC of the 94 zero bytes is
0x0000, which CRC then holds; ERR is 0 and nothing else changes. It raises nothing. The word is 0x1A. [stated:
R131] -/
def Obligations.RecZeroRule : Prop :=
  ∀ s : State, encode .recZero = 0x1A ∧
    ∃ c, exec .recZero s = .next { s with record := c, crc := 0, err := 0 } ∧ ∀ r i, c.read r i = 0

/-- Let j be the number of units before the first zero unit (all c if there is none). TXT.DEC puts their low bytes
into TB[0, j), sets TLEN to j and ERR to 0, and changes nothing else: bytes of TB from j on keep their values.
The word is 0x20 | tid << 8; tid 6 and 7 decode to nothing. [stated: R142] -/
def Obligations.TxtDecRule : Prop :=
  (∀ (t : TextField) (s : State), (encode (.txtDec t)).toNat = 0x20 + t.code.toNat * 2 ^ 8 ∧
    ∃ (j : Nat) (m : Memory), j ≤ t.capacity ∧ (∀ i < j, s.record.read t.reg i ≠ 0) ∧
      (j < t.capacity → s.record.read t.reg j = 0) ∧
      exec (.txtDec t) s = .next { s with tb := m, tlen := BitVec.ofNat 8 j, err := 0 } ∧
      (∀ i < j, m.read i = (s.record.read t.reg i).setWidth 8) ∧ ∀ a, j ≤ a → m.read a = s.tb.read a) ∧
    ∀ (s : State) (tid : BitVec 3), 6 ≤ tid.toNat → issue (0x20#32 ||| tid.setWidth 32 <<< 8) s =
      .next { s with err := 6, eflags := s.eflags ||| 0x40 }

/-- With TLEN at most the capacity, unit i of the field becomes the character TB[i] with a zero high byte for i
below TLEN and 0x0000 from there on; every other register is unchanged, ERR is 0 and nothing else changes. With
TLEN above the capacity LengthError is raised and nothing else changes. The word is 0x21 | tid << 8; tid 6 and 7
raise IllegalOp. [stated: R143] -/
def Obligations.TxtEncRule : Prop :=
  (∀ (t : TextField) (s : State), (encode (.txtEnc t)).toNat = 0x21 + t.code.toNat * 2 ^ 8 ∧
    (s.tlen.toNat ≤ t.capacity → ∃ c, exec (.txtEnc t) s = .next { s with record := c, err := 0 } ∧
      (∀ i < t.capacity, c.read t.reg i = if i < s.tlen.toNat then (s.tb.read i).setWidth 64 else 0) ∧
      ∀ r, r ≠ t.reg → ∀ i, c.read r i = s.record.read r i) ∧
    (t.capacity < s.tlen.toNat → exec (.txtEnc t) s = .next { s with err := 3, eflags := s.eflags ||| 0x08 })) ∧
    ∀ (s : State) (tid : BitVec 3), 6 ≤ tid.toNat → issue (0x21#32 ||| tid.setWidth 32 <<< 8) s =
      .next { s with err := 6, eflags := s.eflags ||| 0x40 }

/-- (a) Encoding a string that fits and has no zero character and decoding it gives the string back. (b) Encoding
the decoding of a list of units gives the units back exactly when every unit before the first zero has a zero
high byte and every unit after it is zero. (c) 0x41, 0x42, 0, 0x43, ... decodes to 0x41, 0x42 whatever follows.
((a) is an inference the spec marks as its own.) [derived: 43_text.md R144] -/
def Obligations.TextViewLaws : Prop :=
  (∀ (c : Nat) (s : List Byte), s.length ≤ c → (0 : Byte) ∉ s → ∃ u, textEnc c s = .ok u ∧ textDec u = s) ∧
    (∀ u : List CodeUnit, textEnc u.length (textDec u) = .ok u ↔
      ∃ j ≤ u.length, (∀ i < j, u.getD i 0 ≠ 0 ∧ (u.getD i 0).toNat < 256) ∧ ∀ i, j ≤ i → u.getD i 0 = 0) ∧
    ∀ rest : List CodeUnit, textDec (0x41 :: 0x42 :: 0 :: 0x43 :: rest) = [0x41, 0x42]

/-- For every byte list, crc16 is the fold from 0 that xors each byte into bits 15:8 and then eight times shifts
left within 16 bits, xoring 0x1021 when bit 15 was one. (The spec marks the procedure as general knowledge, not
in its source; log 7.) [derived: 44_checksum.md R150, 93_implementation_defined.md G1] -/
def Obligations.CrcBitSerial : Prop :=
  ∀ bs : List Byte, (crc16 bs).toNat = bs.foldl (fun c b =>
      (fun x => if x &&& 0x8000 ≠ 0 then ((x <<< 1) ^^^ 0x1021) &&& 0xFFFF else (x <<< 1) &&& 0xFFFF)^[8]
        (c ^^^ (b.toNat <<< 8))) 0

/-- For every byte list, with B the polynomial whose coefficients are the list's bits (the most significant bit of
the first byte the highest power), B(x) * x^16 is a multiple of x^16 + x^12 + x^5 + 1 plus the polynomial of
degree below 16 whose coefficients are the bits of crc16. (R161 marks this formulation as general knowledge, not
in its source; log 7.) [derived: 44_checksum.md R161, 93_implementation_defined.md G1] -/
def Obligations.CrcIsThePolynomialRemainder : Prop :=
  ∀ bs : List Byte, ∃ q : Polynomial (ZMod 2),
    (∑ i ∈ Finset.range (8 * bs.length), if (beDec bs).testBit i then (Polynomial.X : Polynomial (ZMod 2)) ^ i else 0) *
        Polynomial.X ^ 16 =
      q * (Polynomial.X ^ 16 + Polynomial.X ^ 12 + Polynomial.X ^ 5 + 1) +
        ∑ i ∈ Finset.range 16, if (crc16 bs).getLsbD i then Polynomial.X ^ i else 0

/-- For lists of equal length the CRC of the bytewise xor is the xor of the CRCs; leading zero bytes do not change a
CRC, so n zero bytes have CRC 0x0000. (An inference the spec marks as its own, from R150.) [derived:
44_checksum.md R160 (b), 44_checksum.md R160 (c), 44_checksum.md R160 (d)] -/
def Obligations.CrcIsLinear : Prop :=
  (∀ a b : List Byte, a.length = b.length → crc16 (List.zipWith (· ^^^ ·) a b) = crc16 a ^^^ crc16 b) ∧
    (∀ (n : Nat) (bs : List Byte), crc16 (List.replicate n 0 ++ bs) = crc16 bs) ∧
    ∀ n : Nat, crc16 (List.replicate n 0) = 0

/-- For every message and two bytes h, l: crc16 of the message followed by them is 0x0000 exactly when the big-
endian integer h, l is the message's CRC; in particular with be_enc(2, crc16). (An inference the spec marks as
its own, from R150.) [derived: 44_checksum.md R160 (e)] -/
def Obligations.CrcResidue : Prop :=
  (∀ (bs : List Byte) (h l : Byte), crc16 (bs ++ [h, l]) = 0 ↔ beDec [h, l] = (crc16 bs).toNat) ∧
    ∀ bs : List Byte, crc16 (bs ++ beEnc 2 (crc16 bs).toNat) = 0

/-- Two messages that differ in exactly one byte have different CRCs, wherever the byte stands and whatever it was
and becomes. (An inference the spec marks as its own, from R150.) [derived: 44_checksum.md R160 (f)] -/
def Obligations.CrcDetectsAByteChange : Prop :=
  ∀ (p q : List Byte) (b b' : Byte), b ≠ b' → crc16 (p ++ b :: q) ≠ crc16 (p ++ b' :: q)

/-- With off + len inside min(FLEN, 0x120), CRC16 puts the crc16 of FB[off, off+len) into CRC and, zero-extended,
into x[2]; ERR is 0 and nothing else changes (len = 0 gives 0x0000). Otherwise ContractFault is raised and
nothing else changes. The word is 0x30 | off << 8 | len << 17. [stated: R154] -/
def Obligations.Crc16Rule : Prop :=
  ∀ (off len : BitVec 9) (s : State),
    (encode (.crc16 off len)).toNat = 0x30 + off.toNat * 2 ^ 8 + len.toNat * 2 ^ 17 ∧
    (off.toNat + len.toNat ≤ min s.flen.toNat 0x120 → exec (.crc16 off len) s = .next { s with
      crc := crc16 ((List.range len.toNat).map (fun i => s.fb.read (off.toNat + i))),
      x2 := (crc16 ((List.range len.toNat).map (fun i => s.fb.read (off.toNat + i)))).setWidth 64, err := 0 }) ∧
    (min s.flen.toNat 0x120 < off.toNat + len.toNat → exec (.crc16 off len) s =
      .next { s with err := 7, eflags := s.eflags ||| 0x80 }) ∧ crc16 [] = 0

/-- Let bs be the 0x5E bytes that the A registers and C.unknown encode to. CRC.VFY puts crc16(bs) into CRC and 1 or
0 into x[2] as it equals C.checksum or not; ERR is 0 in both cases and nothing else changes. The word is 0x31.
[stated: R155] -/
def Obligations.CrcVfyRule : Prop :=
  ∀ s : State, encode .crcVfy = 0x31 ∧
    ∃ bs : List Byte, bs.length = 0x5E ∧
      (∀ r ∈ Reg.avatar ++ [.cUnknown], FieldHolds s.record r (fun a => bs.getD a 0) 0) ∧
      exec .crcVfy s = .next { s with
        crc := crc16 bs, x2 := if crc16 bs = s.record.cChecksum then 1 else 0, err := 0 }

/-- Let bs be the 0x5E bytes that the A registers and C.unknown encode to. CRC.FIX puts crc16(bs) into CRC and
C.checksum; ERR is 0 and nothing else changes, C.unknown included. A second CRC.FIX changes nothing, and CRC.VFY
after it gives 1. The word is 0x32. [stated: R156] -/
def Obligations.CrcFixRule : Prop :=
  ∀ s : State, encode .crcFix = 0x32 ∧
    ∃ bs : List Byte, bs.length = 0x5E ∧
      (∀ r ∈ Reg.avatar ++ [.cUnknown], FieldHolds s.record r (fun a => bs.getD a 0) 0) ∧
      exec .crcFix s = .next { s with
        crc := crc16 bs, record := { s.record with cChecksum := crc16 bs }, err := 0 } ∧
      ∀ t, exec .crcFix s = .next t → exec .crcFix t = .next t ∧ ∃ u, exec .crcVfy t = .next u ∧ u.x2 = 1

/-- With TLEN = 10 and every TB[i], i below 10, in 0x30 .. 0x39, CHK.DGT puts (10 - (3*evenSum + oddSum) mod 10) mod
10 into x[2], oddSum over positions 2, 4, 6, 8 and evenSum over 3, 5, 7, 9, which is 0 to 9; ERR is 0 and
nothing else changes. Otherwise ContractFault is raised and nothing else changes. The word is 0x38. (That the
characters are ASCII digits the spec marks as general knowledge; log 7.) [derived: 44_checksum.md R158,
44_checksum.md R159] -/
def Obligations.ChkDgtRule : Prop :=
  ∀ s : State, encode .chkDgt = 0x38 ∧
    (s.tlen.toNat = 10 → (∀ i < 10, 0x30 ≤ (s.tb.read i).toNat ∧ (s.tb.read i).toNat ≤ 0x39) →
      ∀ d : Nat → Nat, (∀ i, d i = (s.tb.read i).toNat - 0x30) →
      exec .chkDgt s = .next { s with
        x2 := BitVec.ofNat 64 ((10 - (3 * (d 3 + d 5 + d 7 + d 9) + (d 2 + d 4 + d 6 + d 8)) % 10) % 10), err := 0 }) ∧
    (s.tlen.toNat ≠ 10 ∨ (∃ i < 10, (s.tb.read i).toNat < 0x30 ∨ 0x39 < (s.tb.read i).toNat) →
      exec .chkDgt s = .next { s with err := 7, eflags := s.eflags ||| 0x80 }) ∧
    ∀ d : Nat → Nat, checkDigit d ≤ 9

/-- For every issued word, legal or not: if it ends with ERR not 0, the next state is the state before it with ERR
the code and EFLAGS with the code's bit set; no register, buffer, record or length is written, not even partly.
[stated: R176] -/
def Obligations.ExceptionsWriteOnlyTheStatus : Prop :=
  ∀ (s t : State) (cmd : Command), issue cmd s = .next t → t.err ≠ 0 →
    t = { s with err := t.err, eflags := s.eflags ||| 1#8 <<< t.err.toNat }

/-- After an issued word that ends with status k not 0, bit k of EFLAGS is set; a success leaves EFLAGS; no input
but a reset clears a bit; no input sets bit 0, 4 or 5, and bit 0 is never shown; a reset clears them all, and
after reset they are clear. [stated: R25] -/
def Obligations.EflagsIsSticky : Prop :=
  (∀ (s t : State) (cmd : Command), issue cmd s = .next t →
      (t.err ≠ 0 → t.eflags.getLsbD t.err.toNat = true) ∧ (t.err = 0 → t.eflags = s.eflags)) ∧
    (∀ (s t : State) (a : Input), a ≠ .reset → runInput a s = .next t →
      ∀ k, s.eflags.getLsbD k = true → t.eflags.getLsbD k = true) ∧
    (∀ (s t : State) (a : Input), runInput a s = .next t → ∀ k, k = 0 ∨ k = 4 ∨ k = 5 → s.eflags.getLsbD k = false →
      t.eflags.getLsbD k = false) ∧
    (∀ s : State, (readEflags s).getLsbD 0 = false) ∧
    (∀ s : State, ∃ t, runInput .reset s = .next t ∧ t.eflags = 0) ∧ State.reset.eflags = 0

/-- For every well-formed instruction in every state, the status it ends with is 0 or the code of an exception that
the table lists for it. (The table is one the spec marks as its own inference, from the operation rules.)
[derived: 60_exceptions.md R175] -/
def Obligations.OnlyListedExceptions : Prop :=
  ∀ (i : Instr) (s t : State), i.WellFormed → exec i s = .next t → t.err = 0 ∨ ∃ e ∈ canRaise i, t.err = e.code

/-- An illegal word is IllegalOp in every state. BF.PACK with x[0] at or above 2^W and x[1] above 2^n - 1, and STI
out of bounds with too large a value, report ContractFault. [stated: R178] -/
def Obligations.PriorityOfCauses : Prop :=
  (∀ (cmd : Command) (s : State), ¬ LegalWord cmd → ∃ t, issue cmd s = .next t ∧ t.err = 6) ∧
    (∀ (W : Width) (o : BitVec 6) (n : BitVec 7) (s : State), 1 ≤ n.toNat → o.toNat + n.toNat ≤ W.bits →
      2 ^ W.bits ≤ s.x0.toNat → 2 ^ n.toNat - 1 < s.x1.toNat → ∃ t, exec (.bfPack W o n) s = .next t ∧ t.err = 7) ∧
    ∀ (k : Size) (off : BitVec 9) (s : State), min s.flen.toNat 0x120 < off.toNat + k.bytes →
      2 ^ (8 * k.bytes) ≤ s.x1.toNat →
      (∃ t, exec (.stiLe k off) s = .next t ∧ t.err = 7) ∧ ∃ t, exec (.stiBe k off) s = .next t ∧ t.err = 7

/-- No operation writes x[0] or x[1]; x[2], CRC, FLEN, TLEN, TB, FB and REC change only by the operations the spec
lists for each. [derived: 10_state.md R22, 10_state.md R26, 10_state.md R29, 10_state.md R38, 20_memory.md R50] -/
def Obligations.OnlyTheListedOperationsWrite : Prop :=
  ∀ (i : Instr) (s t : State), exec i s = .next t →
    t.x0 = s.x0 ∧ t.x1 = s.x1 ∧ t.inputs = s.inputs ∧ t.replies = s.replies ∧
    (t.x2 ≠ s.x2 → i.row.mnemonic ∈
      ["BF.EXT", "BF.PACK", "LDI.LE", "LDI.BE", "FLD.GET", "CRC16", "CRC.VFY", "CHK.DGT"]) ∧
    (t.crc ≠ s.crc → i.row.mnemonic ∈ ["CRC16", "CRC.VFY", "CRC.FIX", "REC.ZERO"]) ∧
    (t.flen ≠ s.flen → i.row.mnemonic ∈ ["AVA.ENC", "CAV.ENC", "FRD.ENC"]) ∧
    (t.tlen ≠ s.tlen → i.row.mnemonic ∈ ["TXT.DEC"]) ∧
    (t.tb ≠ s.tb → i.row.mnemonic ∈ ["TXT.DEC"]) ∧
    (t.fb ≠ s.fb → i.row.mnemonic ∈ ["AVA.ENC", "CAV.ENC", "FRD.ENC", "STI.LE", "STI.BE"]) ∧
    (t.record ≠ s.record → i.row.mnemonic ∈
      ["AVA.DEC", "CAV.DEC", "FRD.DEC", "FLD.SET", "REC.ZERO", "TXT.ENC", "CRC.FIX"])

/-- An operation that changes C.checksum is one of these five: AVA.DEC, TXT.ENC and FLD.SET of any other field never
rewrite it as a side effect. [derived: 10_state.md R32, 44_checksum.md R157] -/
def Obligations.ChecksumIsNeverFixedSilently : Prop :=
  ∀ (i : Instr) (s t : State), exec i s = .next t → t.record.cChecksum ≠ s.record.cChecksum →
    i = .cavDec ∨ i = .frdDec ∨ (∃ idx, i = .fldSet (.reg .cChecksum) idx) ∨ i = .crcFix ∨ i = .recZero

/-- An operation run from two states that differ only in ERR, EFLAGS, CRC and x[2] ends with the same status and the
same record, buffers and lengths; x[2] and CRC are the same after both or kept by both; EFLAGS keeps its own
bits and takes the same new one. [derived: 10_state.md R49] -/
def Obligations.ResultsIgnoreStatusAndOldResults : Prop :=
  ∀ (i : Instr) (s t : State) (e : BitVec 3) (f : BitVec 8) (c : BitVec 16) (x : XWord), exec i s = .next t →
    ∃ t', exec i { s with err := e, eflags := f, crc := c, x2 := x } = .next t' ∧
      t'.err = t.err ∧ t'.record = t.record ∧ t'.fb = t.fb ∧ t'.tb = t.tb ∧ t'.flen = t.flen ∧ t'.tlen = t.tlen ∧
      (t'.x2 = t.x2 ∨ t'.x2 = x ∧ t.x2 = s.x2) ∧ (t'.crc = t.crc ∨ t'.crc = c ∧ t.crc = s.crc) ∧
      t'.eflags = if t.err = 0 then f else f ||| 1#8 <<< t.err.toNat

/-- If two states agree on all but the bytes of FB outside min(FLEN, 0x120) and of TB at and beyond TLEN, then after
any step (host action, operation or reset) they agree so again: status, registers, record, lengths, presented
bytes and everything shown to the host are the same. [derived: 20_memory.md R51, 93_implementation_defined.md
U13] -/
def Obligations.HiddenBytesNeverShow : Prop :=
  ∀ s s' t : State, SameView s s' → step s = .next t → ∃ t', step s' = .next t' ∧ SameView t t'

/-- From every state that meets the invariant every step gives one that does: FB and TB stay in canonical form and
inside their 0x120 and 32 addresses, bits 0, 4 and 5 of EFLAGS stay 0, ERR is never 4 or 5, and a non-zero ERR
is recorded in EFLAGS. (The canonical form of the two lists is the model's choice, log 1.) [derived: 10_state.md
R25, 20_memory.md R50, 60_exceptions.md R171] -/
def Obligations.InvariantIsKept : Prop :=
  ∀ s t : State, s.Inv → step s = .next t → t.Inv

/-- The state after reset meets the invariant that every step keeps. (The canonical form of the two lists is the
model's choice, log 1.) [derived: 10_state.md R41] -/
def Obligations.InvariantAtReset : Prop :=
  State.reset.Inv

/-- After reset x[0..2], ERR, EFLAGS, CRC, FLEN and TLEN are 0, every byte of FB and TB reads 0, every element of
every register of REC is 0, and CRC.VFY right after reset returns 1. [stated: R41] -/
def Obligations.ResetState : Prop :=
  State.reset.x0 = 0 ∧ State.reset.x1 = 0 ∧ State.reset.x2 = 0 ∧ State.reset.err = 0 ∧ State.reset.eflags = 0 ∧
    State.reset.crc = 0 ∧ State.reset.flen = 0 ∧ State.reset.tlen = 0 ∧ (∀ a, State.reset.fb.read a = 0) ∧
    (∀ a, State.reset.tb.read a = 0) ∧ (∀ r i, State.reset.record.read r i = 0) ∧
    ∃ t, exec .crcVfy State.reset = .next t ∧ t.x2 = 1

/-- When the next input is a reset, the step gives the reset state of every piece of the block; what the host has
yet to send and what it has been shown stay. That reset can stand among the inputs is the model's choice, log 4.
[derived: 70_reset_and_hazards.md R190] -/
def Obligations.ResetInputRestarts : Prop :=
  ∀ (s : State) (rest : List Input), s.inputs = .reset :: rest →
    step s = .next { State.reset with inputs := rest, replies := s.replies }

/-- (a) CRC.VFY gives x[2] = 1; (b) every decode raises SizeError; (c) every LDI and STI raises ContractFault and
CRC16 0, 0 succeeds with 0; (d) every encode gives a frame of zeros of its size; (e) TXT.DEC of any field gives
the empty string; (f) CHK.DGT raises ContractFault; (g) REC.ZERO changes nothing (ERR is 0 already). (The spec
marks all of these as its own inferences from R190.) [derived: 70_reset_and_hazards.md R191] -/
def Obligations.AfterReset : Prop :=
  (∃ t, exec .crcVfy State.reset = .next t ∧ t.x2 = 1 ∧ t.err = 0) ∧
    (∀ i, i = .avaDec ∨ i = .cavDec ∨ i = .frdDec → exec i State.reset = .next { State.reset with err := 1, eflags := 2 }) ∧
    (∀ k off i, i = .ldiLe k off ∨ i = .ldiBe k off ∨ i = .stiLe k off ∨ i = .stiBe k off →
      exec i State.reset = .next { State.reset with err := 7, eflags := 0x80 }) ∧
    exec (.crc16 0 0) State.reset = .next State.reset ∧
    exec .avaEnc State.reset = .next { State.reset with flen := 0x5C } ∧
    exec .cavEnc State.reset = .next { State.reset with flen := 0x60 } ∧
    exec .frdEnc State.reset = .next { State.reset with flen := 0x120 } ∧
    (∀ t, exec (.txtDec t) State.reset = .next State.reset) ∧
    exec .chkDgt State.reset = .next { State.reset with err := 7, eflags := 0x80 } ∧
    exec .recZero State.reset = .next State.reset

/-- After H.FRAME of a list of length L, FB[i] is its byte i for i below min(L, 0x120), every other byte of FB is as
before, FLEN is min(L, 0xFFFF), and nothing else has changed. [stated: R61] -/
def Obligations.FramePresented : Prop :=
  ∀ (s : State) (bs : List Byte),
    ∃ m, runInput (.frame bs) s = .next { s with fb := m, flen := BitVec.ofNat 16 (min bs.length 0xFFFF) } ∧
      (∀ i < min bs.length 0x120, m.read i = bs.getD i 0) ∧
      ∀ a, min bs.length 0x120 ≤ a → m.read a = s.fb.read a

/-- H.TEXT of a list of length L makes TB[i] its byte i for i below min(L, 32), TLEN min(L, 0xFF), and changes
nothing else; H.RTEXT shows TB[0 .. min(TLEN, 32)) and TLEN and changes no state of the block. (That what the
host is shown stands in State.replies is the model's choice, log 3.) [derived: 20_memory.md R64] -/
def Obligations.TextPresented : Prop :=
  (∀ (s : State) (bs : List Byte),
      ∃ m, runInput (.text bs) s = .next { s with tb := m, tlen := BitVec.ofNat 8 (min bs.length 0xFF) } ∧
        (∀ i < min bs.length 32, m.read i = bs.getD i 0) ∧
        ∀ a, min bs.length 32 ≤ a → m.read a = s.tb.read a) ∧
    ∀ s : State, runInput .rtext s = .next { s with
      replies := s.replies ++ [.text ((List.range (min s.tlen.toNat 32)).map s.tb.read) s.tlen] }

/-- H.READ shows the presented window and FLEN; H.GETX(i) shows x[i]; H.STATUS shows ERR, EFLAGS (bit 0 hardwired
0), CRC, FLEN and TLEN; none of them changes the block's state. H.SETX(i, v) makes H.GETX(i) read v, leaves the
other two and everything else. (That what the host is shown stands in State.replies is the model's choice, log
3.) [derived: 20_memory.md R62, 20_memory.md R63, 20_memory.md R65] -/
def Obligations.HostReadsAndWrites : Prop :=
  (∀ s : State, runInput .read s = .next { s with
      replies := s.replies ++ [.frame ((List.range (min s.flen.toNat 0x120)).map s.fb.read) s.flen] }) ∧
    (∀ (s : State) (i : Fin 3), runInput (.getx i) s = .next { s with
      replies := s.replies ++ [.xreg i (if i = 0 then s.x0 else if i = 1 then s.x1 else s.x2)] }) ∧
    (∀ (s : State) (i : Fin 3) (v : XWord), runInput (.setx i v) s = .next { s with
        x0 := if i = 0 then v else s.x0, x1 := if i = 1 then v else s.x1, x2 := if i = 2 then v else s.x2 }) ∧
    ∀ s : State, runInput .status s = .next { s with
      replies := s.replies ++ [.status s.err (s.eflags &&& 0xFE) s.crc s.flen s.tlen] }

/-- The one step of .movx i, j gives the state that the two steps H.GETX(j) and H.SETX(i, v) give, v being what x[j]
holds. That it is one input is the model's choice, log 10. [derived: 30_encoding.md R92] -/
def Obligations.MovxIsGetThenSet : Prop :=
  ∀ (s : State) (i j : Fin 3) (rest : List Input), s.inputs = .movx i j :: rest →
    ∃ t u, step { s with inputs := .getx j :: .setx i (s.getX j) :: rest } = .next t ∧ step t = .next u ∧
      step s = .next u

end
end

