-- ==== Sys2Proof/Laws/Memory.lean ====
section
/-! SUPPORT. The laws of a buffer: what a write leaves to read, and that it keeps the canonical form. -/

namespace Sys2Proof.Machine

@[simp] theorem Memory.read_nil (a : Nat) : Memory.read [] a = Memory.unlisted := rfl

theorem Memory.read_of_not_listed {m : Memory} {a : Nat} (h : ∀ c ∈ m, c.1 ≠ a) : m.read a = Memory.unlisted := by
  induction m with
  | nil => rfl
  | cons c rest ih =>
    obtain ⟨k, b⟩ := c
    have hk : k ≠ a := h (k, b) (by simp)
    simp only [Memory.read, if_neg hk]
    exact ih fun c hc => h c (by simp [hc])

theorem Memory.read_append_right {m n : Memory} {a : Nat} (h : ∀ c ∈ m, c.1 ≠ a) :
    Memory.read (m ++ n) a = n.read a := by
  induction m with
  | nil => rfl
  | cons c rest ih =>
    obtain ⟨k, b⟩ := c
    have hk : k ≠ a := h (k, b) (by simp)
    simp only [List.cons_append, Memory.read, if_neg hk]
    exact ih fun c hc => h c (by simp [hc])

theorem Memory.read_append_left {m n : Memory} {a : Nat} (h : ∀ c ∈ n, c.1 ≠ a) :
    Memory.read (m ++ n) a = m.read a := by
  induction m with
  | nil => exact Memory.read_of_not_listed h
  | cons c rest ih =>
    obtain ⟨k, b⟩ := c
    simp only [List.cons_append, Memory.read, ih]

/-- Leaving out cells of other addresses does not change what an address reads as. -/
theorem Memory.read_filter (p : Nat → Bool) (m : Memory) {a : Nat} (h : p a = true) :
    Memory.read (m.filter (fun c => p c.1)) a = m.read a := by
  induction m with
  | nil => rfl
  | cons c rest ih =>
    obtain ⟨k, b⟩ := c
    by_cases hk : k = a
    · subst hk; simp [h, Memory.read]
    · by_cases hp : p k = true <;> simp [hp, Memory.read, hk, ih]

/-! ## The cells of a list of bytes -/

/-- The cells of a list, by recursion on it; `Memory.cells` is this from 0. -/
theorem Memory.cells_nil (addr : Nat) : Memory.cells addr [] = [] := rfl

theorem Memory.cells_cons (addr : Nat) (b : Byte) (bs : List Byte) :
    Memory.cells addr (b :: bs) =
      (if b = Memory.unlisted then [] else [(addr, b)]) ++ Memory.cells (addr + 1) bs := by
  have hzip : ∀ (l : List Nat) (bs : List Byte) (f g : Nat × Byte → Option Host.Cell),
      (∀ i b, f (i + 1, b) = g (i, b)) →
      ((l.map (· + 1)).zip bs).filterMap f = (l.zip bs).filterMap g := by
    intro l bs f g hfg
    induction l generalizing bs with
    | nil => simp
    | cons i l ih =>
      cases bs with
      | nil => simp
      | cons b bs => simp [List.filterMap_cons, hfg, ih]
  simp only [Memory.cells, List.length_cons, List.range_succ_eq_map, List.zip_cons_cons, List.filterMap_cons]
  rw [hzip (List.range bs.length) bs _
    (fun c => if c.2 = Memory.unlisted then none else some (addr + 1 + c.1, c.2))
    (by intro i b; simp only [Nat.add_comm, Nat.add_left_comm])]
  by_cases hb : b = Memory.unlisted <;> simp [hb]

theorem Memory.cells_range {addr : Nat} {bs : List Byte} :
    ∀ c ∈ Memory.cells addr bs, addr ≤ c.1 ∧ c.1 < addr + bs.length := by
  induction bs generalizing addr with
  | nil => simp [Memory.cells_nil]
  | cons b bs ih =>
    intro c hc
    rw [Memory.cells_cons, List.mem_append] at hc
    rcases hc with hc | hc
    · split at hc
      · cases hc
      · simp only [List.mem_singleton] at hc; subst hc; simp
    · have := ih c hc
      simp only [List.length_cons]; omega

theorem Memory.read_cells (addr : Nat) (bs : List Byte) (a : Nat) :
    Memory.read (Memory.cells addr bs) a =
      if addr ≤ a ∧ a < addr + bs.length then bs.getD (a - addr) 0 else Memory.unlisted := by
  induction bs generalizing addr with
  | nil => simp [Memory.cells_nil]
  | cons b bs ih =>
    rw [Memory.cells_cons]
    by_cases ha : a = addr
    · subst ha
      have hno : ∀ c ∈ Memory.cells (a + 1) bs, c.1 ≠ a := fun c hc => by
        have := Memory.cells_range c hc; omega
      rw [Memory.read_append_left hno]
      by_cases hb : b = Memory.unlisted <;> simp [hb, Memory.read]
    · have hno : ∀ c ∈ (if b = Memory.unlisted then [] else [(addr, b)] : Memory), c.1 ≠ a := fun c hc => by
        split at hc
        · cases hc
        · simp only [List.mem_singleton] at hc; subst hc; exact fun h => ha h.symm
      rw [Memory.read_append_right hno, ih, List.length_cons]
      by_cases hr : addr + 1 ≤ a ∧ a < addr + 1 + bs.length
      · have hs : a - addr = (a - (addr + 1)) + 1 := by omega
        rw [if_pos hr, if_pos (by omega), hs, List.getD_cons_succ]
      · rw [if_neg hr, if_neg (by omega)]

/-! ## Writing -/

/-- Everything a write does: the bytes of the list in their place, every other address as before. -/
theorem Memory.read_writeList (m : Memory) (addr : Nat) (bs : List Byte) (a : Nat) :
    (m.writeList addr bs).read a =
      if addr ≤ a ∧ a < addr + bs.length then bs.getD (a - addr) 0 else m.read a := by
  have hlow : ∀ c ∈ m.filter (fun c => decide (c.1 < addr)), c.1 < addr := by simp
  have hhigh : ∀ c ∈ m.filter (fun c => decide (addr + bs.length ≤ c.1)), addr + bs.length ≤ c.1 := by simp
  unfold Memory.writeList
  by_cases h : addr ≤ a ∧ a < addr + bs.length
  · rw [Memory.read_append_left (fun c hc => by have := hhigh c hc; omega),
      Memory.read_append_right (fun c hc => by have := hlow c hc; omega), Memory.read_cells, if_pos h, if_pos h]
  · rw [if_neg h]
    by_cases hl : a < addr
    · rw [Memory.read_append_left (fun c hc => by have := hhigh c hc; omega),
        Memory.read_append_left (fun c hc => by have := Memory.cells_range c hc; omega)]
      exact Memory.read_filter (fun k => decide (k < addr)) m (by simpa using hl)
    · rw [Memory.read_append_right (fun c hc => by
        rcases List.mem_append.mp hc with hc | hc
        · have := hlow c hc; omega
        · have := Memory.cells_range c hc; omega)]
      exact Memory.read_filter (fun k => decide (addr + bs.length ≤ k)) m (by simp; omega)

theorem Memory.read_writeList_of_lt {m : Memory} {addr a : Nat} {bs : List Byte} (h : a < addr) :
    (m.writeList addr bs).read a = m.read a := by rw [Memory.read_writeList, if_neg (by omega)]

theorem Memory.read_writeList_of_ge {m : Memory} {addr a : Nat} {bs : List Byte} (h : addr + bs.length ≤ a) :
    (m.writeList addr bs).read a = m.read a := by rw [Memory.read_writeList, if_neg (by omega)]

/-! ## Lists of bytes -/

@[simp] theorem Memory.readList_length (m : Memory) (addr n : Nat) : (m.readList addr n).length = n := by
  simp [Memory.readList]

theorem Memory.getElem_readList (m : Memory) (addr n i : Nat) (h : i < (m.readList addr n).length) :
    (m.readList addr n)[i] = m.read (addr + i) := by simp [Memory.readList]

theorem Memory.getD_readList (m : Memory) (addr n i : Nat) (h : i < n) :
    (m.readList addr n).getD i 0 = m.read (addr + i) := by
  rw [List.getD_eq_getElem _ _ (by simpa using h), Memory.getElem_readList]

/-! ## The canonical form -/

theorem Memory.wfFrom_mono {lo lo' : Nat} {m : Memory} (h : lo' ≤ lo) (hm : Memory.wfFrom lo m = true) :
    Memory.wfFrom lo' m = true := by
  cases m with
  | nil => rfl
  | cons c rest =>
    obtain ⟨k, b⟩ := c
    simp only [Memory.wfFrom, Bool.and_eq_true, decide_eq_true_eq] at hm ⊢
    exact ⟨⟨by omega, hm.1.2⟩, hm.2⟩

theorem Memory.wfFrom_append {lo mid : Nat} {m n : Memory} (hm : Memory.wfFrom lo m = true)
    (hlt : ∀ c ∈ m, c.1 < mid) (hlo : lo ≤ mid) (hn : Memory.wfFrom mid n = true) :
    Memory.wfFrom lo (m ++ n) = true := by
  induction m generalizing lo with
  | nil => exact Memory.wfFrom_mono hlo hn
  | cons c rest ih =>
    obtain ⟨k, b⟩ := c
    simp only [List.cons_append, Memory.wfFrom, Bool.and_eq_true, decide_eq_true_eq] at hm ⊢
    have hk : k < mid := hlt (k, b) (by simp)
    exact ⟨hm.1, ih hm.2 (fun c hc => hlt c (by simp [hc])) hk⟩

theorem Memory.wfFrom_filter_lt {lo : Nat} (p : Nat → Bool) {m : Memory} (hm : Memory.wfFrom lo m = true) :
    Memory.wfFrom lo (m.filter (fun c => p c.1)) = true := by
  induction m generalizing lo with
  | nil => rfl
  | cons c rest ih =>
    obtain ⟨k, b⟩ := c
    simp only [Memory.wfFrom, Bool.and_eq_true, decide_eq_true_eq] at hm
    by_cases hp : p k = true
    · simp only [List.filter_cons, hp, if_true, Memory.wfFrom, Bool.and_eq_true, decide_eq_true_eq]
      exact ⟨hm.1, ih hm.2⟩
    · simp only [List.filter_cons, hp]
      exact Memory.wfFrom_mono (by omega) (ih hm.2)

theorem Memory.wfFrom_filter_ge {lo : Nat} (hi : Nat) {m : Memory} (hm : Memory.wfFrom lo m = true) :
    Memory.wfFrom hi (m.filter (fun c => decide (hi ≤ c.1))) = true := by
  induction m generalizing lo with
  | nil => rfl
  | cons c rest ih =>
    obtain ⟨k, b⟩ := c
    simp only [Memory.wfFrom, Bool.and_eq_true, decide_eq_true_eq] at hm
    by_cases hp : hi ≤ k
    · simp only [List.filter_cons, decide_eq_true hp, if_true, Memory.wfFrom, Bool.and_eq_true]
      refine ⟨⟨trivial, hm.1.2⟩, ?_⟩
      exact Memory.wfFrom_filter_lt (fun k => decide (hi ≤ k)) hm.2
    · simp only [List.filter_cons, decide_eq_false hp]
      exact ih hm.2

theorem Memory.wfFrom_cells (addr : Nat) (bs : List Byte) : Memory.wfFrom addr (Memory.cells addr bs) = true := by
  induction bs generalizing addr with
  | nil => rfl
  | cons b bs ih =>
    rw [Memory.cells_cons]
    by_cases hb : b = Memory.unlisted
    · simpa [hb] using Memory.wfFrom_mono (Nat.le_succ addr) (ih (addr + 1))
    · simp [hb, Memory.wfFrom, ih]

/-- Every write keeps the canonical form. -/
theorem Memory.wf_writeList {m : Memory} (addr : Nat) (bs : List Byte) (h : m.wf = true) :
    (m.writeList addr bs).wf = true := by
  unfold Memory.writeList Memory.wf at *
  refine Memory.wfFrom_append (mid := addr + bs.length) ?_ ?_ (by omega) (Memory.wfFrom_filter_ge _ h)
  · exact Memory.wfFrom_append (mid := addr) (Memory.wfFrom_filter_lt (fun k => decide (k < addr)) h)
      (by simp) (by omega) (Memory.wfFrom_cells addr bs)
  · intro c hc
    rcases List.mem_append.mp hc with hc | hc
    · have : c.1 < addr := by simpa using (List.mem_filter.mp hc).2
      omega
    · exact (Memory.cells_range c hc).2

/-- A write inside a buffer lists no address outside it. -/
theorem Memory.inside_writeList {m : Memory} {size addr : Nat} {bs : List Byte} (h : m.inside size = true)
    (hb : addr + bs.length ≤ size) : (m.writeList addr bs).inside size = true := by
  simp only [Memory.inside, List.all_eq_true, decide_eq_true_eq, Memory.writeList] at *
  intro c hc
  rcases List.mem_append.mp hc with hc | hc
  · rcases List.mem_append.mp hc with hc | hc
    · exact h c (List.mem_filter.mp hc).1
    · have := Memory.cells_range c hc; omega
  · exact h c (List.mem_filter.mp hc).1

theorem Memory.unlisted_of_lt_wfFrom {lo a : Nat} {m : Memory} (hm : Memory.wfFrom lo m = true) (h : a < lo) :
    m.read a = Memory.unlisted := by
  refine Memory.read_of_not_listed fun c hc => ?_
  have : lo ≤ c.1 := by
    induction m generalizing lo with
    | nil => cases hc
    | cons d rest ih =>
      obtain ⟨k, b⟩ := d
      simp only [Memory.wfFrom, Bool.and_eq_true, decide_eq_true_eq] at hm
      rcases List.mem_cons.mp hc with rfl | hc
      · exact hm.1.1
      · have := ih hm.2 (by omega) hc; omega
  omega

/-- In canonical form equal memories are equal lists. -/
theorem Memory.ext_of_wf {m n : Memory} (hm : m.wf = true) (hn : n.wf = true) (h : ∀ a, m.read a = n.read a) : m = n := by
  have key : ∀ (lo : Nat) (m n : Memory), Memory.wfFrom lo m = true → Memory.wfFrom lo n = true →
      (∀ a, m.read a = n.read a) → m = n := by
    intro lo m
    induction m generalizing lo with
    | nil =>
      intro n _ hn h
      cases n with
      | nil => rfl
      | cons c rest =>
        obtain ⟨k, b⟩ := c
        have hk := h k
        simp only [Memory.wfFrom, Bool.and_eq_true, bne_iff_ne] at hn
        simp only [Memory.read, if_true] at hk
        exact absurd hk.symm hn.1.2
    | cons c rest ih =>
      obtain ⟨k, b⟩ := c
      intro n hm hn h
      simp only [Memory.wfFrom, Bool.and_eq_true, decide_eq_true_eq, bne_iff_ne] at hm
      cases n with
      | nil =>
        have hk := h k
        simp only [Memory.read, if_true] at hk
        exact absurd hk hm.1.2
      | cons d rest' =>
        obtain ⟨k', b'⟩ := d
        simp only [Memory.wfFrom, Bool.and_eq_true, decide_eq_true_eq, bne_iff_ne] at hn
        have hkk : k = k' := by
          by_contra hne
          rcases Nat.lt_or_gt_of_ne hne with hlt | hgt
          · have hk := h k
            simp only [Memory.read, if_true, if_neg (Ne.symm hne)] at hk
            rw [Memory.unlisted_of_lt_wfFrom hn.2 (by omega)] at hk
            exact hm.1.2 hk
          · have hk := h k'
            simp only [Memory.read, if_true, if_neg hne] at hk
            rw [Memory.unlisted_of_lt_wfFrom hm.2 (by omega)] at hk
            exact hn.1.2 hk.symm
        subst hkk
        have hb : b = b' := by simpa [Memory.read] using h k
        subst hb
        rw [ih (k + 1) rest' hm.2 hn.2 fun a => ?_]
        by_cases ha : k = a
        · subst ha
          rw [Memory.unlisted_of_lt_wfFrom hm.2 (by omega), Memory.unlisted_of_lt_wfFrom hn.2 (by omega)]
        · simpa [Memory.read, ha] using h a
  exact key 0 m n hm hn h

end Sys2Proof.Machine
end

