-- ==== Sys2Proof/Laws/State.lean ====
section
/-! SUPPORT. What every update of the state leaves in every field: one lemma per field per update, true by rfl. -/

namespace Sys2Proof.Machine

@[simp] theorem State.raise_x0 (s : State) (e : Exc) : (s.raise e).x0 = s.x0 := rfl
@[simp] theorem State.raise_x1 (s : State) (e : Exc) : (s.raise e).x1 = s.x1 := rfl
@[simp] theorem State.raise_x2 (s : State) (e : Exc) : (s.raise e).x2 = s.x2 := rfl
@[simp] theorem State.raise_err (s : State) (e : Exc) : (s.raise e).err = e.code := rfl
@[simp] theorem State.raise_eflags (s : State) (e : Exc) : (s.raise e).eflags = setSticky s.eflags e.code := rfl
@[simp] theorem State.raise_crc (s : State) (e : Exc) : (s.raise e).crc = s.crc := rfl
@[simp] theorem State.raise_flen (s : State) (e : Exc) : (s.raise e).flen = s.flen := rfl
@[simp] theorem State.raise_tlen (s : State) (e : Exc) : (s.raise e).tlen = s.tlen := rfl
@[simp] theorem State.raise_record (s : State) (e : Exc) : (s.raise e).record = s.record := rfl
@[simp] theorem State.raise_tb (s : State) (e : Exc) : (s.raise e).tb = s.tb := rfl
@[simp] theorem State.raise_fb (s : State) (e : Exc) : (s.raise e).fb = s.fb := rfl
@[simp] theorem State.raise_inputs (s : State) (e : Exc) : (s.raise e).inputs = s.inputs := rfl
@[simp] theorem State.raise_replies (s : State) (e : Exc) : (s.raise e).replies = s.replies := rfl

@[simp] theorem State.succeed_x0 (s : State) : (s.succeed).x0 = s.x0 := rfl
@[simp] theorem State.succeed_x1 (s : State) : (s.succeed).x1 = s.x1 := rfl
@[simp] theorem State.succeed_x2 (s : State) : (s.succeed).x2 = s.x2 := rfl
@[simp] theorem State.succeed_err (s : State) : (s.succeed).err = okCode := rfl
@[simp] theorem State.succeed_eflags (s : State) : (s.succeed).eflags = s.eflags := rfl
@[simp] theorem State.succeed_crc (s : State) : (s.succeed).crc = s.crc := rfl
@[simp] theorem State.succeed_flen (s : State) : (s.succeed).flen = s.flen := rfl
@[simp] theorem State.succeed_tlen (s : State) : (s.succeed).tlen = s.tlen := rfl
@[simp] theorem State.succeed_record (s : State) : (s.succeed).record = s.record := rfl
@[simp] theorem State.succeed_tb (s : State) : (s.succeed).tb = s.tb := rfl
@[simp] theorem State.succeed_fb (s : State) : (s.succeed).fb = s.fb := rfl
@[simp] theorem State.succeed_inputs (s : State) : (s.succeed).inputs = s.inputs := rfl
@[simp] theorem State.succeed_replies (s : State) : (s.succeed).replies = s.replies := rfl

@[simp] theorem State.result_x0 (s : State) (v : Nat) : (s.result v).x0 = s.x0 := rfl
@[simp] theorem State.result_x1 (s : State) (v : Nat) : (s.result v).x1 = s.x1 := rfl
@[simp] theorem State.result_x2 (s : State) (v : Nat) : (s.result v).x2 = BitVec.ofNat 64 v := rfl
@[simp] theorem State.result_err (s : State) (v : Nat) : (s.result v).err = s.err := rfl
@[simp] theorem State.result_eflags (s : State) (v : Nat) : (s.result v).eflags = s.eflags := rfl
@[simp] theorem State.result_crc (s : State) (v : Nat) : (s.result v).crc = s.crc := rfl
@[simp] theorem State.result_flen (s : State) (v : Nat) : (s.result v).flen = s.flen := rfl
@[simp] theorem State.result_tlen (s : State) (v : Nat) : (s.result v).tlen = s.tlen := rfl
@[simp] theorem State.result_record (s : State) (v : Nat) : (s.result v).record = s.record := rfl
@[simp] theorem State.result_tb (s : State) (v : Nat) : (s.result v).tb = s.tb := rfl
@[simp] theorem State.result_fb (s : State) (v : Nat) : (s.result v).fb = s.fb := rfl
@[simp] theorem State.result_inputs (s : State) (v : Nat) : (s.result v).inputs = s.inputs := rfl
@[simp] theorem State.result_replies (s : State) (v : Nat) : (s.result v).replies = s.replies := rfl

@[simp] theorem State.reveal_x0 (s : State) (r : Reply) : (s.reveal r).x0 = s.x0 := rfl
@[simp] theorem State.reveal_x1 (s : State) (r : Reply) : (s.reveal r).x1 = s.x1 := rfl
@[simp] theorem State.reveal_x2 (s : State) (r : Reply) : (s.reveal r).x2 = s.x2 := rfl
@[simp] theorem State.reveal_err (s : State) (r : Reply) : (s.reveal r).err = s.err := rfl
@[simp] theorem State.reveal_eflags (s : State) (r : Reply) : (s.reveal r).eflags = s.eflags := rfl
@[simp] theorem State.reveal_crc (s : State) (r : Reply) : (s.reveal r).crc = s.crc := rfl
@[simp] theorem State.reveal_flen (s : State) (r : Reply) : (s.reveal r).flen = s.flen := rfl
@[simp] theorem State.reveal_tlen (s : State) (r : Reply) : (s.reveal r).tlen = s.tlen := rfl
@[simp] theorem State.reveal_record (s : State) (r : Reply) : (s.reveal r).record = s.record := rfl
@[simp] theorem State.reveal_tb (s : State) (r : Reply) : (s.reveal r).tb = s.tb := rfl
@[simp] theorem State.reveal_fb (s : State) (r : Reply) : (s.reveal r).fb = s.fb := rfl
@[simp] theorem State.reveal_inputs (s : State) (r : Reply) : (s.reveal r).inputs = s.inputs := rfl
@[simp] theorem State.reveal_replies (s : State) (r : Reply) : (s.reveal r).replies = s.replies ++ [r] := rfl

@[simp] theorem State.presentFrame_x0 (s : State) (bs : List Byte) : (s.presentFrame bs).x0 = s.x0 := rfl
@[simp] theorem State.presentFrame_x1 (s : State) (bs : List Byte) : (s.presentFrame bs).x1 = s.x1 := rfl
@[simp] theorem State.presentFrame_x2 (s : State) (bs : List Byte) : (s.presentFrame bs).x2 = s.x2 := rfl
@[simp] theorem State.presentFrame_err (s : State) (bs : List Byte) : (s.presentFrame bs).err = s.err := rfl
@[simp] theorem State.presentFrame_eflags (s : State) (bs : List Byte) : (s.presentFrame bs).eflags = s.eflags := rfl
@[simp] theorem State.presentFrame_crc (s : State) (bs : List Byte) : (s.presentFrame bs).crc = s.crc := rfl
@[simp] theorem State.presentFrame_flen (s : State) (bs : List Byte) : (s.presentFrame bs).flen = BitVec.ofNat 16 (min bs.length 0xFFFF) := rfl
@[simp] theorem State.presentFrame_tlen (s : State) (bs : List Byte) : (s.presentFrame bs).tlen = s.tlen := rfl
@[simp] theorem State.presentFrame_record (s : State) (bs : List Byte) : (s.presentFrame bs).record = s.record := rfl
@[simp] theorem State.presentFrame_tb (s : State) (bs : List Byte) : (s.presentFrame bs).tb = s.tb := rfl
@[simp] theorem State.presentFrame_fb (s : State) (bs : List Byte) : (s.presentFrame bs).fb = s.fb.writeList 0 (bs.take fbSize) := rfl
@[simp] theorem State.presentFrame_inputs (s : State) (bs : List Byte) : (s.presentFrame bs).inputs = s.inputs := rfl
@[simp] theorem State.presentFrame_replies (s : State) (bs : List Byte) : (s.presentFrame bs).replies = s.replies := rfl

@[simp] theorem State.presentText_x0 (s : State) (bs : List Byte) : (s.presentText bs).x0 = s.x0 := rfl
@[simp] theorem State.presentText_x1 (s : State) (bs : List Byte) : (s.presentText bs).x1 = s.x1 := rfl
@[simp] theorem State.presentText_x2 (s : State) (bs : List Byte) : (s.presentText bs).x2 = s.x2 := rfl
@[simp] theorem State.presentText_err (s : State) (bs : List Byte) : (s.presentText bs).err = s.err := rfl
@[simp] theorem State.presentText_eflags (s : State) (bs : List Byte) : (s.presentText bs).eflags = s.eflags := rfl
@[simp] theorem State.presentText_crc (s : State) (bs : List Byte) : (s.presentText bs).crc = s.crc := rfl
@[simp] theorem State.presentText_flen (s : State) (bs : List Byte) : (s.presentText bs).flen = s.flen := rfl
@[simp] theorem State.presentText_tlen (s : State) (bs : List Byte) : (s.presentText bs).tlen = BitVec.ofNat 8 (min bs.length 0xFF) := rfl
@[simp] theorem State.presentText_record (s : State) (bs : List Byte) : (s.presentText bs).record = s.record := rfl
@[simp] theorem State.presentText_tb (s : State) (bs : List Byte) : (s.presentText bs).tb = s.tb.writeList 0 (bs.take tbSize) := rfl
@[simp] theorem State.presentText_fb (s : State) (bs : List Byte) : (s.presentText bs).fb = s.fb := rfl
@[simp] theorem State.presentText_inputs (s : State) (bs : List Byte) : (s.presentText bs).inputs = s.inputs := rfl
@[simp] theorem State.presentText_replies (s : State) (bs : List Byte) : (s.presentText bs).replies = s.replies := rfl

@[simp] theorem State.issueNext_x0 (s : State) (cmd : Command) : (s.issueNext cmd).x0 = s.x0 := rfl
@[simp] theorem State.issueNext_x1 (s : State) (cmd : Command) : (s.issueNext cmd).x1 = s.x1 := rfl
@[simp] theorem State.issueNext_x2 (s : State) (cmd : Command) : (s.issueNext cmd).x2 = s.x2 := rfl
@[simp] theorem State.issueNext_err (s : State) (cmd : Command) : (s.issueNext cmd).err = s.err := rfl
@[simp] theorem State.issueNext_eflags (s : State) (cmd : Command) : (s.issueNext cmd).eflags = s.eflags := rfl
@[simp] theorem State.issueNext_crc (s : State) (cmd : Command) : (s.issueNext cmd).crc = s.crc := rfl
@[simp] theorem State.issueNext_flen (s : State) (cmd : Command) : (s.issueNext cmd).flen = s.flen := rfl
@[simp] theorem State.issueNext_tlen (s : State) (cmd : Command) : (s.issueNext cmd).tlen = s.tlen := rfl
@[simp] theorem State.issueNext_record (s : State) (cmd : Command) : (s.issueNext cmd).record = s.record := rfl
@[simp] theorem State.issueNext_tb (s : State) (cmd : Command) : (s.issueNext cmd).tb = s.tb := rfl
@[simp] theorem State.issueNext_fb (s : State) (cmd : Command) : (s.issueNext cmd).fb = s.fb := rfl
@[simp] theorem State.issueNext_inputs (s : State) (cmd : Command) : (s.issueNext cmd).inputs = .issue cmd :: s.inputs := rfl
@[simp] theorem State.issueNext_replies (s : State) (cmd : Command) : (s.issueNext cmd).replies = s.replies := rfl

@[simp] theorem State.resetBlock_x0 (s : State) : (s.resetBlock).x0 = 0 := rfl
@[simp] theorem State.resetBlock_x1 (s : State) : (s.resetBlock).x1 = 0 := rfl
@[simp] theorem State.resetBlock_x2 (s : State) : (s.resetBlock).x2 = 0 := rfl
@[simp] theorem State.resetBlock_err (s : State) : (s.resetBlock).err = 0 := rfl
@[simp] theorem State.resetBlock_eflags (s : State) : (s.resetBlock).eflags = 0 := rfl
@[simp] theorem State.resetBlock_crc (s : State) : (s.resetBlock).crc = 0 := rfl
@[simp] theorem State.resetBlock_flen (s : State) : (s.resetBlock).flen = 0 := rfl
@[simp] theorem State.resetBlock_tlen (s : State) : (s.resetBlock).tlen = 0 := rfl
@[simp] theorem State.resetBlock_record (s : State) : (s.resetBlock).record = RecFile.zero := rfl
@[simp] theorem State.resetBlock_tb (s : State) : (s.resetBlock).tb = [] := rfl
@[simp] theorem State.resetBlock_fb (s : State) : (s.resetBlock).fb = [] := rfl
@[simp] theorem State.resetBlock_inputs (s : State) : (s.resetBlock).inputs = s.inputs := rfl
@[simp] theorem State.resetBlock_replies (s : State) : (s.resetBlock).replies = s.replies := rfl

@[simp] theorem State.setX_x0 (s : State) (i : Fin 3) (v : XWord) : (s.setX i v).x0 = if i = 0 then v else s.x0 := by
  fin_cases i <;> rfl
@[simp] theorem State.setX_x1 (s : State) (i : Fin 3) (v : XWord) : (s.setX i v).x1 = if i = 1 then v else s.x1 := by
  fin_cases i <;> rfl
@[simp] theorem State.setX_x2 (s : State) (i : Fin 3) (v : XWord) : (s.setX i v).x2 = if i = 2 then v else s.x2 := by
  fin_cases i <;> rfl
@[simp] theorem State.setX_err (s : State) (i : Fin 3) (v : XWord) : (s.setX i v).err = s.err := by
  fin_cases i <;> rfl
@[simp] theorem State.setX_eflags (s : State) (i : Fin 3) (v : XWord) : (s.setX i v).eflags = s.eflags := by
  fin_cases i <;> rfl
@[simp] theorem State.setX_crc (s : State) (i : Fin 3) (v : XWord) : (s.setX i v).crc = s.crc := by
  fin_cases i <;> rfl
@[simp] theorem State.setX_flen (s : State) (i : Fin 3) (v : XWord) : (s.setX i v).flen = s.flen := by
  fin_cases i <;> rfl
@[simp] theorem State.setX_tlen (s : State) (i : Fin 3) (v : XWord) : (s.setX i v).tlen = s.tlen := by
  fin_cases i <;> rfl
@[simp] theorem State.setX_record (s : State) (i : Fin 3) (v : XWord) : (s.setX i v).record = s.record := by
  fin_cases i <;> rfl
@[simp] theorem State.setX_tb (s : State) (i : Fin 3) (v : XWord) : (s.setX i v).tb = s.tb := by
  fin_cases i <;> rfl
@[simp] theorem State.setX_fb (s : State) (i : Fin 3) (v : XWord) : (s.setX i v).fb = s.fb := by
  fin_cases i <;> rfl
@[simp] theorem State.setX_inputs (s : State) (i : Fin 3) (v : XWord) : (s.setX i v).inputs = s.inputs := by
  fin_cases i <;> rfl
@[simp] theorem State.setX_replies (s : State) (i : Fin 3) (v : XWord) : (s.setX i v).replies = s.replies := by
  fin_cases i <;> rfl

/-- A data register reads as the value last written to it, the others as before. -/
theorem State.getX_setX (s : State) (i j : Fin 3) (v : XWord) : (s.setX i v).getX j = if i = j then v else s.getX j := by
  fin_cases i <;> fin_cases j <;> rfl

end Sys2Proof.Machine
end

