-- ==== Sys2Proof/Laws/Ops.lean ====
section
/-! SUPPORT. What each shared operation can do, said once: when it succeeds and with which state, and what it raises. -/

namespace Sys2Proof.Machine

/-! ## Outcomes -/

@[simp] theorem complete_ok (s t : State) : complete s (.ok t) = .next t.succeed := rfl
@[simp] theorem complete_error (s : State) (e : Exc) : complete s (.error e) = .next (s.raise e) := rfl

/-- An operation always ends in a next state: the one it reached, or its start with the exception taken. -/
theorem complete_cases (s : State) (r : Except Exc State) :
    (∃ t, r = .ok t ∧ complete s r = .next t.succeed) ∨ (∃ e, r = .error e ∧ complete s r = .next (s.raise e)) := by
  cases r with
  | ok t => exact .inl ⟨t, rfl, rfl⟩
  | error e => exact .inr ⟨e, rfl, rfl⟩

@[simp] theorem check_true (e : Exc) (rest : Except Exc State) : check true e rest = .error e := rfl
@[simp] theorem check_false (e : Exc) (rest : Except Exc State) : check false e rest = rest := rfl

theorem check_eq_ok {c : Bool} {e : Exc} {rest : Except Exc State} {t : State} :
    check c e rest = .ok t ↔ c = false ∧ rest = .ok t := by cases c <;> simp

theorem check_eq_error {c : Bool} {e e' : Exc} {rest : Except Exc State} :
    check c e rest = .error e' ↔ (c = true ∧ e = e') ∨ (c = false ∧ rest = .error e') := by cases c <;> simp

/-- No status code is 0. -/
theorem Exc.code_ne_ok (e : Exc) : e.code ≠ okCode := by cases e <;> decide

/-! ## Numbering -/

/-- Reading back a `tabulate`. -/
@[simp] theorem getElem_tabulate {α : Type} (n : Nat) (f : Nat → α) (i : Nat) (h : i < n) : (tabulate n f)[i] = f i := by
  simp [tabulate]

@[simp] theorem toList_tabulate {α : Type} (n : Nat) (f : Nat → α) : (tabulate n f).toList = (List.range n).map f := by
  simp [tabulate]

/-! ## The operations -/

theorem opExt_ok {W o n : Nat} {s t : State} (h : opExt W o n s = .ok t) :
    ∃ hc : InField W o n, s.x0.toNat < 2 ^ W ∧ t = s.result (extract (s.x0.setWidth W) o n hc) := by
  unfold opExt at h
  split at h
  · rename_i hc
    rw [check_eq_ok] at h
    exact ⟨hc, by simpa using h.1, by simpa using h.2.symm⟩
  · cases h

theorem opPack_ok {W o n : Nat} {s t : State} (h : opPack W o n s = .ok t) :
    ∃ (hc : InField W o n) (w : BitVec W), s.x0.toNat < 2 ^ W ∧ pack (s.x0.setWidth W) o n s.x1.toNat hc = .ok w ∧
      t = s.result w.toNat := by
  unfold opPack at h
  split at h
  · rename_i hc
    rw [check_eq_ok] at h
    obtain ⟨h1, h2⟩ := h
    split at h2
    · cases h2
    · rename_i w hw
      exact ⟨hc, w, by simpa using h1, hw, by simpa using h2.symm⟩
  · cases h

theorem opLoad_ok {order : ByteOrder} {k off : Nat} {s t : State} (h : opLoad order k off s = .ok t) :
    s.inWindow off k ∧ t = s.result (decInt order (s.fb.readList off k)) := by
  rw [opLoad, check_eq_ok] at h
  exact ⟨by simpa using h.1, by simpa using h.2.symm⟩

theorem opStore_ok {order : ByteOrder} {k off : Nat} {s t : State} (h : opStore order k off s = .ok t) :
    s.inWindow off k ∧ s.x1.toNat < 2 ^ (8 * k) ∧
      t = { s with fb := s.fb.writeList off (encInt order k s.x1.toNat) } := by
  rw [opStore, check_eq_ok, check_eq_ok] at h
  exact ⟨by simpa using h.1, by simpa using h.2.1, by simpa using h.2.2.symm⟩

theorem opDecode_ok {size : Nat} {load : RecFile → List Byte → RecFile} {s t : State}
    (h : opDecode size load s = .ok t) :
    s.flen.toNat = size ∧ t = { s with record := load s.record (s.fb.readList 0 size) } := by
  rw [opDecode, check_eq_ok] at h
  exact ⟨by simpa using h.1, by simpa using h.2.symm⟩

theorem opEncode_ok {size : Nat} {bytes : RecFile → List Byte} {s t : State} (h : opEncode size bytes s = .ok t) :
    t = { s with fb := s.fb.writeList 0 (bytes s.record), flen := BitVec.ofNat 16 size } := by
  simpa [opEncode] using h.symm

theorem opGet_ok {f : FieldId} {idx : Nat} {s t : State} (h : opGet f idx s = .ok t) :
    idx < f.count ∧ t = { s with x2 := s.record.getField f idx } := by
  rw [opGet, check_eq_ok] at h
  exact ⟨by simpa using h.1, by simpa using h.2.symm⟩

theorem opSet_ok {f : FieldId} {idx : Nat} {s t : State} (h : opSet f idx s = .ok t) :
    idx < f.count ∧ ∃ c, s.record.setField f idx s.x1 = .ok c ∧ t = { s with record := c } := by
  rw [opSet, check_eq_ok] at h
  obtain ⟨h1, h2⟩ := h
  split at h2
  · cases h2
  · rename_i c hc
    exact ⟨by simpa using h1, c, hc, by simpa using h2.symm⟩

theorem opTextDec_ok {t : TextField} {s u : State} (h : opTextDec t s = .ok u) :
    u = { s with tb := s.tb.writeList 0 (textDec (s.record.units t)),
                 tlen := BitVec.ofNat 8 (textDec (s.record.units t)).length } := by
  simpa [opTextDec] using h.symm

theorem opTextEnc_ok {t : TextField} {s u : State} (h : opTextEnc t s = .ok u) :
    s.tlen.toNat ≤ t.capacity ∧
      u = { s with record := s.record.setUnits t (textUnit (s.tb.readList 0 s.tlen.toNat)) } := by
  rw [opTextEnc, check_eq_ok] at h
  exact ⟨by simpa using h.1, by simpa using h.2.symm⟩

theorem opCrc16_ok {off len : Nat} {s t : State} (h : opCrc16 off len s = .ok t) :
    s.inWindow off len ∧ t = { s with crc := crc16 (s.fb.readList off len),
                                      x2 := (crc16 (s.fb.readList off len)).setWidth 64 } := by
  rw [opCrc16, check_eq_ok] at h
  exact ⟨by simpa using h.1, by simpa using h.2.symm⟩

theorem opVerify_ok {s t : State} (h : opVerify s = .ok t) :
    t = { s with crc := s.record.cavCrc, x2 := if s.record.verify then 1 else 0 } := by
  simpa [opVerify] using h.symm

theorem opFix_ok {s t : State} (h : opFix s = .ok t) : t = { s with crc := s.record.cavCrc, record := s.record.fix } := by
  simpa [opFix] using h.symm

theorem opZero_ok {s t : State} (h : opZero s = .ok t) :
    t = { s with crc := RecFile.zero.cavCrc, record := RecFile.zero.fix } := by
  simpa [opZero, opFix] using h.symm

theorem opCheckDigit_ok {s t : State} (h : opCheckDigit s = .ok t) :
    s.tlen.toNat = 10 ∧ (s.tb.readList 0 10).all isDigit = true ∧
      t = s.result (checkDigit (fun i => (s.tb.read i).toNat - 0x30)) := by
  rw [opCheckDigit, check_eq_ok, check_eq_ok] at h
  exact ⟨by simpa using h.1, by simpa using h.2.1, by simpa using h.2.2.symm⟩

/-! ## pack -/

theorem pack_eq_ok {W : Nat} {w p : BitVec W} {o n v : Nat} {h : InField W o n} :
    pack w o n v h = .ok p ↔ v ≤ 2 ^ n - 1 ∧ p = (w &&& ~~~(fieldMask W o n)) ||| (BitVec.ofNat W v <<< o) := by
  unfold pack; split <;> rename_i hv
  · simp only [reduceCtorEq, false_iff, not_and]; omega
  · simp only [Except.ok.injEq, eq_comm (a := p)]; constructor
    · exact fun hp => ⟨by omega, hp⟩
    · exact fun hp => hp.2

theorem pack_eq_error {W : Nat} {w : BitVec W} {o n v : Nat} {h : InField W o n} {e : Exc} :
    pack w o n v h = .error e ↔ e = .rangeError ∧ 2 ^ n - 1 < v := by
  unfold pack; split <;> rename_i hv
  · simp only [Except.error.injEq, eq_comm (a := e)]; constructor
    · exact fun hp => ⟨hp, by omega⟩
    · exact fun hp => hp.1
  · simp only [reduceCtorEq, false_iff, not_and]; omega

/-! ## What an operation raises -/

theorem opExt_error {W o n : Nat} {s : State} {e : Exc} : opExt W o n s = .error e ↔
    (¬ InField W o n ∧ e = .illegalOp) ∨ (InField W o n ∧ 2 ^ W ≤ s.x0.toNat ∧ e = .contractFault) := by
  unfold opExt
  split <;> rename_i hc
  · rw [check_eq_error]; simp only [ge_iff_le, decide_eq_true_eq, reduceCtorEq, and_false, or_false, eq_comm (a := e)]
    tauto
  · simp [hc, eq_comm (a := e)]

theorem opLoad_error {order : ByteOrder} {k off : Nat} {s : State} {e : Exc} : opLoad order k off s = .error e ↔
    s.window < off + k ∧ e = .contractFault := by
  rw [opLoad, check_eq_error]; simp [State.inWindow, eq_comm (a := e)]

theorem opStore_error {order : ByteOrder} {k off : Nat} {s : State} {e : Exc} : opStore order k off s = .error e ↔
    (s.window < off + k ∧ e = .contractFault) ∨
      (off + k ≤ s.window ∧ 2 ^ (8 * k) ≤ s.x1.toNat ∧ e = .rangeError) := by
  rw [opStore, check_eq_error, check_eq_error]; simp [State.inWindow, eq_comm (a := e)]

theorem opDecode_error {size : Nat} {load : RecFile → List Byte → RecFile} {s : State} {e : Exc} :
    opDecode size load s = .error e ↔ s.flen.toNat ≠ size ∧ e = .sizeError := by
  rw [opDecode, check_eq_error]; simp [eq_comm (a := e)]

theorem opGet_error {f : FieldId} {idx : Nat} {s : State} {e : Exc} :
    opGet f idx s = .error e ↔ f.count ≤ idx ∧ e = .illegalOp := by
  rw [opGet, check_eq_error]; simp [eq_comm (a := e)]

theorem setField_error {c : RecFile} {f : FieldId} {idx : Nat} {v : XWord} {e : Exc} :
    c.setField f idx v = .error e ↔ 2 ^ f.bits ≤ v.toNat ∧ e = .rangeError := by
  cases f with
  | reg r => simp only [RecFile.setField, FieldId.bits]; split <;> rename_i h <;> simp [eq_comm (a := e)] <;> omega
  | sub f =>
    have := f.inField
    simp only [RecFile.setField, FieldId.bits, pack]
    have h2 : 0 < 2 ^ f.row.n := Nat.two_pow_pos _
    by_cases hv : v.toNat > 2 ^ f.row.n - 1
    · rw [if_pos hv]; simp only [Except.error.injEq, eq_comm (a := e), (by omega : 2 ^ f.row.n ≤ v.toNat), true_and]
    · rw [if_neg hv]; simp only [reduceCtorEq, false_iff, not_and]; omega

theorem opTextEnc_error {t : TextField} {s : State} {e : Exc} :
    opTextEnc t s = .error e ↔ t.capacity < s.tlen.toNat ∧ e = .lengthError := by
  rw [opTextEnc, check_eq_error]; simp [eq_comm (a := e)]

theorem opCrc16_error {off len : Nat} {s : State} {e : Exc} :
    opCrc16 off len s = .error e ↔ s.window < off + len ∧ e = .contractFault := by
  rw [opCrc16, check_eq_error]; simp [State.inWindow, eq_comm (a := e)]

theorem opPack_error {W o n : Nat} {s : State} {e : Exc} : opPack W o n s = .error e ↔
    (¬ InField W o n ∧ e = .illegalOp) ∨ (InField W o n ∧ 2 ^ W ≤ s.x0.toNat ∧ e = .contractFault) ∨
      (InField W o n ∧ s.x0.toNat < 2 ^ W ∧ 2 ^ n - 1 < s.x1.toNat ∧ e = .rangeError) := by
  unfold opPack
  split <;> rename_i hc
  · rw [check_eq_error]
    cases hp : pack (s.x0.setWidth W) o n s.x1.toNat hc with
    | ok w =>
      rw [pack_eq_ok] at hp
      have h1 : ¬ 2 ^ n - 1 < s.x1.toNat := by omega
      simp only [ge_iff_le, decide_eq_true_eq, reduceCtorEq, and_false, or_false, eq_comm (a := e), h1, false_and]
      tauto
    | error e' =>
      rw [pack_eq_error] at hp
      obtain ⟨rfl, h1⟩ := hp
      simp only [ge_iff_le, decide_eq_true_eq, decide_eq_false_iff_not, Nat.not_le, Except.error.injEq, eq_comm (a := e)]
      tauto
  · simp [hc, eq_comm (a := e)]

theorem opSet_error {f : FieldId} {idx : Nat} {s : State} {e : Exc} : opSet f idx s = .error e ↔
    (f.count ≤ idx ∧ e = .illegalOp) ∨ (idx < f.count ∧ 2 ^ f.bits ≤ s.x1.toNat ∧ e = .rangeError) := by
  rw [opSet, check_eq_error]
  cases hf : s.record.setField f idx s.x1 with
  | ok c =>
    have h1 : ¬ 2 ^ f.bits ≤ s.x1.toNat := fun h => by
      rw [(setField_error (e := .rangeError)).mpr ⟨h, rfl⟩] at hf; cases hf
    simp [h1, eq_comm (a := e)]
  | error e' =>
    obtain ⟨h1, rfl⟩ := setField_error.mp hf
    simp [h1, eq_comm (a := e)]

theorem opCheckDigit_error {s : State} {e : Exc} : opCheckDigit s = .error e ↔
    (s.tlen.toNat ≠ 10 ∨ (s.tb.readList 0 10).all isDigit = false) ∧ e = .contractFault := by
  rw [opCheckDigit, check_eq_error, check_eq_error]
  simp only [ne_eq, decide_not, Bool.not_eq_true', decide_eq_false_iff_not, Bool.not_eq_false', decide_eq_true_eq,
    reduceCtorEq, and_false, or_false, eq_comm (a := e)]
  tauto

end Sys2Proof.Machine
end

