-- ==== Sys2Proof/Laws/Exec.lean ====
section
/-! SUPPORT. Every instruction is one of the operations on the state, ended by `complete`: what holds of `complete` and of
the operations holds of `exec`. -/

namespace Sys2Proof.Machine

/-- The operation an instruction performs, before it ends. -/
def operation : Instr → State → Except Exc State
  | .bfExt W o n => opExt W.bits o.toNat n.toNat
  | .bfPack W o n => opPack W.bits o.toNat n.toNat
  | .ldiLe k off => opLoad .little k.bytes off.toNat
  | .ldiBe k off => opLoad .big k.bytes off.toNat
  | .stiLe k off => opStore .little k.bytes off.toNat
  | .stiBe k off => opStore .big k.bytes off.toNat
  | .avaDec => opDecode avatarSize RecFile.loadAvatar
  | .avaEnc => opEncode avatarSize (fun c => packAvatar c.a)
  | .cavDec => opDecode checksummedSize (fun c bs => c.loadChecksummed bs 0)
  | .cavEnc => opEncode checksummedSize packChecksummed
  | .frdDec => opDecode friendSize RecFile.loadFriend
  | .frdEnc => opEncode friendSize packFriend
  | .fldGet f idx => opGet f idx.toNat
  | .fldSet f idx => opSet f idx.toNat
  | .recZero => opZero
  | .txtDec t => opTextDec t
  | .txtEnc t => opTextEnc t
  | .crc16 off len => opCrc16 off.toNat len.toNat
  | .crcVfy => opVerify
  | .crcFix => opFix
  | .chkDgt => opCheckDigit

theorem exec_eq_complete (i : Instr) (s : State) : exec i s = complete s (operation i s) := by cases i <;> rfl

end Sys2Proof.Machine
end

