-- ==== Sys2Proof/Laws/Layout.lean ====
section
/-! SUPPORT. The three facts a model states as checked properties of its tables (30_encoding.md R79): no two sub-fields of
a group overlap, every sub-field lies inside its backing word (`SubField.inField`), and the fields of each frame stand one
after another and add up to its size. -/

namespace Sys2Proof

/-- Sub-fields of one group have disjoint ranges. -/
def SubRow.disjoint (p q : SubRow) : Bool := p.group != q.group || decide (p.o + p.n ≤ q.o ∨ q.o + q.n ≤ p.o)

/-- Whether the registers stand one after another from `base` and end at `stop`. -/
def Reg.tile : List Reg → Nat → Nat → Bool
  | [], base, stop => base == stop
  | r :: rest, base, stop => (r.offset == base) && Reg.tile rest (base + r.size) stop

theorem subFields_disjoint : (SubField.all.map SubField.row).Pairwise (fun p q => SubRow.disjoint p q = true) := by
  decide +kernel

/-- Every sub-field is at most 6 bits wide and its group is a bit-field group (30_encoding.md R74). -/
theorem subFields_width (f : SubField) : f.row.n ≤ 6 ∧ ∃ w b, f.row.group.row.kind = .group w b := by
  cases f <;> exact ⟨by decide, _, _, rfl⟩

theorem avatar_tiles : Reg.tile Reg.avatar 0 avatarSize = true := by decide
theorem checksummed_tiles : Reg.tile (Reg.avatar ++ Reg.wrapper) 0 checksummedSize = true := by decide

/-- The `F.` registers before the embedded record fill `[0, 0xBB)`, and the last one fills `[0x11B, 0x120)`. -/
theorem friend_tiles : Reg.tile (Reg.friend.dropLast) 0 embedOffset = true ∧
    Reg.tile [.fPad11B] (embedOffset + checksummedSize) friendSize = true := by decide

/-- There are 45 registers (25 + 2 + 18), 57 sub-fields, and each is listed once (10_state.md R30; 30_encoding.md R74). -/
theorem table_counts : Reg.avatar.length = 25 ∧ Reg.wrapper.length = 2 ∧ Reg.friend.length = 18 ∧
    SubField.all.length = 57 ∧ Reg.all.Nodup ∧ SubField.all.Nodup := by decide +kernel

/-- No register is left out of the lists. -/
theorem Reg.mem_all (r : Reg) : r ∈ Reg.all := by cases r <;> decide

theorem SubField.mem_all (f : SubField) : f ∈ SubField.all := by cases f <;> decide

end Sys2Proof
end

