-- ==== Sys2Proof/Laws/PerInstr.lean ====
section
/-! SUPPORT. Facts about every instruction, one lemma per constructor. -/

namespace Sys2Proof.Laws

/-- The operation code in an encoded word is the one of the instruction's row of the opcode map (30_encoding.md R87). -/
def EncodeMatchesRow.Statement (i : Instr) : Prop :=
  (encode i).extractLsb' 0 8 = i.row.op ∧ i.row ∈ opcodeTable

theorem opcode_encodeZ (op : BitVec 8) : (encodeZ op).extractLsb' 0 8 = op := by
  ext i hi; simp [encodeZ, show i < 32 by omega, hi]
theorem opcode_encodeB (op : BitVec 8) (W : Width) (o : BitVec 6) (n : BitVec 7) :
    (encodeB op W o n).extractLsb' 0 8 = op := by
  ext i hi; simp [encodeB, show i < 16 by omega, show i < 10 by omega, hi]; omega
theorem opcode_encodeM (op : BitVec 8) (k : Size) (off : BitVec 9) : (encodeM op k off).extractLsb' 0 8 = op := by
  ext i hi; simp [encodeM, show i < 17 by omega, hi]; omega
theorem opcode_encodeC (op : BitVec 8) (off len : BitVec 9) : (encodeC op off len).extractLsb' 0 8 = op := by
  ext i hi; simp [encodeC, show i < 17 by omega, hi]; omega
theorem opcode_encodeF (op : BitVec 8) (f : FieldId) (idx : BitVec 5) : (encodeF op f idx).extractLsb' 0 8 = op := by
  ext i hi; simp [encodeF, show i < 16 by omega, hi]; omega
theorem opcode_encodeT (op : BitVec 8) (t : TextField) : (encodeT op t).extractLsb' 0 8 = op := by
  ext i hi; simp [encodeT, hi]; omega

theorem EncodeMatchesRow.bfExt (W : Width) (o : BitVec 6) (n : BitVec 7) : EncodeMatchesRow.Statement (.bfExt W o n) :=
  ⟨opcode_encodeB .., by simp [Instr.row, opcodeTable]⟩
theorem EncodeMatchesRow.bfPack (W : Width) (o : BitVec 6) (n : BitVec 7) : EncodeMatchesRow.Statement (.bfPack W o n) :=
  ⟨opcode_encodeB .., by simp [Instr.row, opcodeTable]⟩
theorem EncodeMatchesRow.ldiLe (k : Size) (off : BitVec 9) : EncodeMatchesRow.Statement (.ldiLe k off) :=
  ⟨opcode_encodeM .., by simp [Instr.row, opcodeTable]⟩
theorem EncodeMatchesRow.ldiBe (k : Size) (off : BitVec 9) : EncodeMatchesRow.Statement (.ldiBe k off) :=
  ⟨opcode_encodeM .., by simp [Instr.row, opcodeTable]⟩
theorem EncodeMatchesRow.stiLe (k : Size) (off : BitVec 9) : EncodeMatchesRow.Statement (.stiLe k off) :=
  ⟨opcode_encodeM .., by simp [Instr.row, opcodeTable]⟩
theorem EncodeMatchesRow.stiBe (k : Size) (off : BitVec 9) : EncodeMatchesRow.Statement (.stiBe k off) :=
  ⟨opcode_encodeM .., by simp [Instr.row, opcodeTable]⟩
theorem EncodeMatchesRow.avaDec : EncodeMatchesRow.Statement .avaDec :=
  ⟨opcode_encodeZ .., by simp [Instr.row, opcodeTable]⟩
theorem EncodeMatchesRow.avaEnc : EncodeMatchesRow.Statement .avaEnc :=
  ⟨opcode_encodeZ .., by simp [Instr.row, opcodeTable]⟩
theorem EncodeMatchesRow.cavDec : EncodeMatchesRow.Statement .cavDec :=
  ⟨opcode_encodeZ .., by simp [Instr.row, opcodeTable]⟩
theorem EncodeMatchesRow.cavEnc : EncodeMatchesRow.Statement .cavEnc :=
  ⟨opcode_encodeZ .., by simp [Instr.row, opcodeTable]⟩
theorem EncodeMatchesRow.frdDec : EncodeMatchesRow.Statement .frdDec :=
  ⟨opcode_encodeZ .., by simp [Instr.row, opcodeTable]⟩
theorem EncodeMatchesRow.frdEnc : EncodeMatchesRow.Statement .frdEnc :=
  ⟨opcode_encodeZ .., by simp [Instr.row, opcodeTable]⟩
theorem EncodeMatchesRow.fldGet (f : FieldId) (idx : BitVec 5) : EncodeMatchesRow.Statement (.fldGet f idx) :=
  ⟨opcode_encodeF .., by simp [Instr.row, opcodeTable]⟩
theorem EncodeMatchesRow.fldSet (f : FieldId) (idx : BitVec 5) : EncodeMatchesRow.Statement (.fldSet f idx) :=
  ⟨opcode_encodeF .., by simp [Instr.row, opcodeTable]⟩
theorem EncodeMatchesRow.recZero : EncodeMatchesRow.Statement .recZero :=
  ⟨opcode_encodeZ .., by simp [Instr.row, opcodeTable]⟩
theorem EncodeMatchesRow.txtDec (t : TextField) : EncodeMatchesRow.Statement (.txtDec t) :=
  ⟨opcode_encodeT .., by simp [Instr.row, opcodeTable]⟩
theorem EncodeMatchesRow.txtEnc (t : TextField) : EncodeMatchesRow.Statement (.txtEnc t) :=
  ⟨opcode_encodeT .., by simp [Instr.row, opcodeTable]⟩
theorem EncodeMatchesRow.crc16 (off len : BitVec 9) : EncodeMatchesRow.Statement (.crc16 off len) :=
  ⟨opcode_encodeC .., by simp [Instr.row, opcodeTable]⟩
theorem EncodeMatchesRow.crcVfy : EncodeMatchesRow.Statement .crcVfy :=
  ⟨opcode_encodeZ .., by simp [Instr.row, opcodeTable]⟩
theorem EncodeMatchesRow.crcFix : EncodeMatchesRow.Statement .crcFix :=
  ⟨opcode_encodeZ .., by simp [Instr.row, opcodeTable]⟩
theorem EncodeMatchesRow.chkDgt : EncodeMatchesRow.Statement .chkDgt :=
  ⟨opcode_encodeZ .., by simp [Instr.row, opcodeTable]⟩

end Sys2Proof.Laws
end

