-- ==== Sys2Proof/Laws/Record.lean ====
section
/-! SUPPORT. The record register file: what a write leaves to read, register by register; and the lengths of the bytes that
its fields and its three record types encode to. -/

namespace Sys2Proof.Machine

/-! ## Registers -/

/-- A value that fits w bits comes back from them. -/
theorem setWidth_back {w : Nat} (v : XWord) (h : v.toNat < 2 ^ w) : (v.setWidth w).setWidth 64 = v := by
  apply BitVec.eq_of_toNat_eq
  simp only [BitVec.toNat_setWidth, Nat.mod_eq_of_lt h, Nat.mod_eq_of_lt v.isLt]

/-- The element written reads as the value written. -/
theorem RecFile.read_write_same (c : RecFile) (r : Reg) (i : Nat) (v : XWord) (hi : i < r.count)
    (hv : v.toNat < 2 ^ r.elemBits) : (c.write r i v).read r i = v := by
  cases r <;> simp only [Reg.count, Reg.elemBits, Reg.row, RegKind.count, RegKind.elemBits] at hi hv <;>
    simp only [RecFile.write, RecFile.read, Vector.getElem?_setIfInBounds, if_pos, hi, Option.getD_some] <;>
    exact setWidth_back v hv

/-- The other elements of the register are as before. -/
theorem RecFile.read_write_index (c : RecFile) (r : Reg) (i j : Nat) (v : XWord) (hij : i ≠ j) (hj : j < r.count)
    (hi : i < r.count) : (c.write r i v).read r j = c.read r j := by
  cases r <;> simp only [Reg.count, Reg.row, RegKind.count] at hi hj <;>
    first | (exfalso; omega) | simp [RecFile.write, RecFile.read, hij]

/-- Every other register is as before. -/
theorem RecFile.read_write_other (c : RecFile) (r r' : Reg) (i j : Nat) (v : XWord) (h : r' ≠ r) :
    (c.write r i v).read r' j = c.read r' j := by
  cases r <;> cases r' <;> first | rfl | exact absurd rfl h

/-- A text field rewritten reads as its new units. -/
theorem RecFile.read_setUnits_same (c : RecFile) (t : TextField) (u : Nat → CodeUnit) (i : Nat) (hi : i < t.capacity) :
    (c.setUnits t u).read t.reg i = (u i).setWidth 64 := by
  cases t <;> simp only [TextField.capacity, TextField.reg, Reg.count, Reg.row, RegKind.count] at hi <;>
    simp [RecFile.setUnits, RecFile.read, TextField.reg, hi]

/-- Rewriting a text field leaves every other register. -/
theorem RecFile.read_setUnits_other (c : RecFile) (t : TextField) (u : Nat → CodeUnit) (r : Reg) (i : Nat) (h : r ≠ t.reg) :
    (c.setUnits t u).read r i = c.read r i := by
  cases t <;> cases r <;> first | rfl | exact absurd rfl h

/-- The units of a text field are the elements of its register. -/
theorem RecFile.getElem_units (c : RecFile) (t : TextField) (i : Nat) (hi : i < t.capacity) :
    ((c.units t).getD i 0).setWidth 64 = c.read t.reg i := by
  cases t <;> simp only [TextField.capacity, TextField.reg, Reg.count, Reg.row, RegKind.count] at hi <;>
    simp [RecFile.units, RecFile.read, TextField.reg, hi]

theorem RecFile.units_length (c : RecFile) (t : TextField) : (c.units t).length = t.capacity := by
  cases t <;> simp [RecFile.units, TextField.capacity, TextField.reg, Reg.count, Reg.row, RegKind.count]

/-! ## Lengths -/

@[simp] theorem encInt_length (o : ByteOrder) (k v : Nat) : (encInt o k v).length = k := by
  cases o <;> simp [encInt, leEnc, beEnc]
@[simp] theorem packInt_length {w : Nat} (r : Reg) (v : BitVec w) : (packInt r v).length = r.size := by simp [packInt]
@[simp] theorem packBytes_length {n : Nat} (v : Vector Byte n) : (packBytes v).length = n := by simp [packBytes]
@[simp] theorem packUnits_length {n : Nat} (v : Vector CodeUnit n) : (packUnits v).length = 2 * n := by
  simp only [packUnits, List.length_flatMap, List.length_cons, List.length_nil, List.map_const', List.sum_replicate, Vector.length_toList, smul_eq_mul, Nat.mul_comm]

theorem packAvatar_length (a : AvatarRec) : (packAvatar a).length = avatarSize := by
  unfold packAvatar
  simp only [List.length_append]
  simp only [packInt_length]
  simp only [packBytes_length, packUnits_length, Reg.size, Reg.row, RegKind.size, avatarSize]
theorem packChecksummed_length (c : RecFile) : (packChecksummed c).length = checksummedSize := by
  simp only [packChecksummed, List.length_append, packInt_length, packAvatar_length]; rfl
theorem packFriendHead_length (f : FriendRec) : (packFriendHead f).length = embedOffset := by
  simp only [packFriendHead, List.length_append, packInt_length, packBytes_length, packUnits_length]; rfl

theorem packFriend_length (c : RecFile) : (packFriend c).length = friendSize := by
  simp only [packFriend, List.length_append, packBytes_length, packFriendHead_length, packChecksummed_length]; rfl

end Sys2Proof.Machine
end

