-- ==== Sys2Proof/Machine/Asm.lean ====
section
/-! DEFINITION. The assembler and the host's directives (30_encoding.md R91 to R93): the names of fields and commands, a
line's text read as a line, and a line as inputs of the block. No step depends on this file. Log 16. -/

namespace Sys2Proof.Machine

/-! ## Names -/

/-- The name of a register (30_encoding.md R71 to R73, R77). -/
def regName : Reg → String
  | .aMagic => "A.magic"
  | .aOptions => "A.options"
  | .aPosition => "A.position"
  | .aOrigin => "A.origin"
  | .aSystemId => "A.system_id"
  | .aRecordId => "A.record_id"
  | .aMac => "A.mac"
  | .aPad => "A.pad"
  | .aDetails => "A.details"
  | .aName => "A.name"
  | .aHeight => "A.height"
  | .aWidth => "A.width"
  | .aFaceStyle => "A.face_style"
  | .aFaceDetail => "A.face_detail"
  | .aHairStyle => "A.hair_style"
  | .aHairDetail => "A.hair_detail"
  | .aEye => "A.eye"
  | .aEyebrow => "A.eyebrow"
  | .aNose => "A.nose"
  | .aMouth => "A.mouth"
  | .aMustache => "A.mustache"
  | .aBeard => "A.beard"
  | .aGlasses => "A.glasses"
  | .aMole => "A.mole"
  | .aAuthorName => "A.author_name"
  | .cUnknown => "C.unknown"
  | .cChecksum => "C.checksum"
  | .fMagic => "F.magic"
  | .fMagicNumber => "F.magic_number"
  | .fPad08 => "F.pad08"
  | .fOpaque => "F.opaque"
  | .fComment => "F.comment"
  | .fPad50 => "F.pad50"
  | .fRegion => "F.region"
  | .fCountry => "F.country"
  | .fArea => "F.area"
  | .fLanguage => "F.language"
  | .fPlatform => "F.platform"
  | .fPad5D => "F.pad5D"
  | .fLocalSeed => "F.local_seed"
  | .fHexId => "F.hex_id"
  | .fSerial => "F.serial"
  | .fDisplayName => "F.display_name"
  | .fPadB8 => "F.padB8"
  | .fPad11B => "F.pad11B"

/-- The name of a sub-field, written `group.subfield` (30_encoding.md R74). -/
def subFieldName : SubField → String
  | .optionsAllowCopy => "A.options.allow_copy"
  | .optionsPrivateName => "A.options.private_name"
  | .optionsRegionLock => "A.options.region_lock"
  | .optionsCharSet => "A.options.char_set"
  | .positionPage => "A.position.page"
  | .positionSlot => "A.position.slot"
  | .originUnk => "A.origin.unk"
  | .originConsole => "A.origin.console"
  | .detailsSex => "A.details.sex"
  | .detailsBdayMonth => "A.details.bday_month"
  | .detailsBdayDay => "A.details.bday_day"
  | .detailsShirtColor => "A.details.shirt_color"
  | .detailsFavorite => "A.details.favorite"
  | .faceStyleNoShare => "A.face_style.no_share"
  | .faceStyleShape => "A.face_style.shape"
  | .faceStyleSkin => "A.face_style.skin"
  | .faceDetailWrinkles => "A.face_detail.wrinkles"
  | .faceDetailMakeup => "A.face_detail.makeup"
  | .hairDetailColor => "A.hair_detail.color"
  | .hairDetailFlip => "A.hair_detail.flip"
  | .eyeStyle => "A.eye.style"
  | .eyeColor => "A.eye.color"
  | .eyeScale => "A.eye.scale"
  | .eyeYscale => "A.eye.yscale"
  | .eyeRotation => "A.eye.rotation"
  | .eyeXspacing => "A.eye.xspacing"
  | .eyeYposition => "A.eye.yposition"
  | .eyebrowStyle => "A.eyebrow.style"
  | .eyebrowColor => "A.eyebrow.color"
  | .eyebrowScale => "A.eyebrow.scale"
  | .eyebrowYscale => "A.eyebrow.yscale"
  | .eyebrowPad => "A.eyebrow.pad"
  | .eyebrowRotation => "A.eyebrow.rotation"
  | .eyebrowXspacing => "A.eyebrow.xspacing"
  | .eyebrowYposition => "A.eyebrow.yposition"
  | .noseStyle => "A.nose.style"
  | .noseScale => "A.nose.scale"
  | .noseYposition => "A.nose.yposition"
  | .mouthStyle => "A.mouth.style"
  | .mouthColor => "A.mouth.color"
  | .mouthScale => "A.mouth.scale"
  | .mouthYscale => "A.mouth.yscale"
  | .mustacheMouthY => "A.mustache.mouth_y"
  | .mustacheStyle => "A.mustache.style"
  | .mustachePad => "A.mustache.pad"
  | .beardStyle => "A.beard.style"
  | .beardColor => "A.beard.color"
  | .beardScale => "A.beard.scale"
  | .beardYpos => "A.beard.ypos"
  | .glassesStyle => "A.glasses.style"
  | .glassesColor => "A.glasses.color"
  | .glassesScale => "A.glasses.scale"
  | .glassesYpos => "A.glasses.ypos"
  | .moleEnable => "A.mole.enable"
  | .moleScale => "A.mole.scale"
  | .moleXpos => "A.mole.xpos"
  | .moleYpos => "A.mole.ypos"

/-- The name of a text field (30_encoding.md R78). -/
def textName : TextField → String
  | .aName => "A.name"
  | .aAuthorName => "A.author_name"
  | .fComment => "F.comment"
  | .fHexId => "F.hex_id"
  | .fSerial => "F.serial"
  | .fDisplayName => "F.display_name"

def fieldName : FieldId → String
  | .reg r => regName r
  | .sub f => subFieldName f

/-! ## Lines -/

/-- What `.expect` compares with (30_encoding.md R92): a data register, the presented frame or text, or one of what
H.STATUS shows. -/
inductive Check where
  | x (i : Fin 3) (v : XWord)
  | frame (bytes : List Byte)
  | text (bytes : List Byte)
  | err (v : BitVec 3)
  | eflags (v : BitVec 8)
  | crc (v : BitVec 16)
  | flen (v : BitVec 16)
  | tlen (v : BitVec 8)
  deriving DecidableEq, Repr

/-- One line of a program (30_encoding.md R91, R92): a command, a host action written as a directive, or a check. -/
inductive Line where
  | command (i : Instr)
  | directive (a : Input)
  | expect (c : Check)
  deriving DecidableEq, Repr

/-- The host action a check reads by (30_encoding.md R92): H.GETX, H.READ, H.RTEXT or H.STATUS. -/
def checkAction : Check → Input
  | .x i _ => .getx i
  | .frame _ => .read
  | .text _ => .rtext
  | .err _ => .status
  | .eflags _ => .status
  | .crc _ => .status
  | .flen _ => .status
  | .tlen _ => .status

/-- Whether what the host was shown is what the check expects. -/
def checkHolds : Check → Reply → Bool
  | .x i v, .xreg j w => decide (i = j ∧ v = w)
  | .frame bs, .frame bytes _ => decide (bs = bytes)
  | .text bs, .text bytes _ => decide (bs = bytes)
  | .err v, .status err _ _ _ _ => decide (v = err)
  | .eflags v, .status _ eflags _ _ _ => decide (v = eflags)
  | .crc v, .status _ _ crc _ _ => decide (v = crc)
  | .flen v, .status _ _ _ flen _ => decide (v = flen)
  | .tlen v, .status _ _ _ _ tlen => decide (v = tlen)
  | _, _ => false

/-- What a line gives the block: a command is H.ISSUE of its word, a directive is its host action, a check the action it
reads by, which changes nothing of the block (30_encoding.md R91, R92). -/
def lineInput : Line → Input
  | .command i => .issue (encode i)
  | .directive a => a
  | .expect c => checkAction c

/-- A program, a list of lines executed in order (30_encoding.md R92), behind what the host has yet to send. -/
def State.program (s : State) (lines : List Line) : State := { s with inputs := s.inputs ++ lines.map lineInput }

/-! ## The text of a line -/

/-- The double quote. -/
def quote : Char := Char.ofNat 0x22

/-- The text without its comment, which starts with `;` outside quotes (30_encoding.md R91). -/
def stripComment : Bool → List Char → List Char
  | _, [] => []
  | quoted, c :: cs =>
    if c = ';' ∧ quoted = false then [] else c :: stripComment (if c = quote then !quoted else quoted) cs

/-- The text without blanks at either end. -/
def trim (cs : List Char) : List Char :=
  ((cs.dropWhile (fun c => c == ' ')).reverse.dropWhile (fun c => c == ' ')).reverse

/-- The pieces of a text between the separators. -/
def pieces (sep : Char) : List Char → List (List Char)
  | [] => [[]]
  | c :: cs =>
    if c = sep then [] :: pieces sep cs
    else match pieces sep cs with
      | [] => [[c]]
      | p :: ps => (c :: p) :: ps

/-- The value of a digit in a base up to 16. -/
def digitValue (base : Nat) (c : Char) : Option Nat :=
  let v := if '0' ≤ c ∧ c ≤ '9' then c.toNat - 48
    else if 'a' ≤ c ∧ c ≤ 'f' then c.toNat - 87
    else if 'A' ≤ c ∧ c ≤ 'F' then c.toNat - 55
    else base
  if v < base then some v else none

/-- A number in a base: at least one digit, nothing else. -/
def parseDigits (base : Nat) (cs : List Char) : Option Nat :=
  if cs = [] then none
  else cs.foldl (fun acc c => acc.bind (fun n => (digitValue base c).map (fun d => n * base + d))) (some 0)

/-- A number, decimal or `0x` hexadecimal (30_encoding.md R91). -/
def parseNumber (cs : List Char) : Option Nat :=
  match cs with
  | '0' :: 'x' :: rest => parseDigits 16 rest
  | _ => parseDigits 10 cs

/-- A number that fits in w bits. -/
def parseBits (w : Nat) (cs : List Char) : Option (BitVec w) :=
  (parseNumber cs).bind (fun n => if n < 2 ^ w then some (BitVec.ofNat w n) else none)

/-- A data register's index, 0 to 2. -/
def parseX (cs : List Char) : Option (Fin 3) :=
  (parseNumber cs).bind (fun n => if h : n < 3 then some ⟨n, h⟩ else none)

/-- W written as 8, 16, 32 or 64 (30_encoding.md R91). -/
def parseWidth (cs : List Char) : Option Width :=
  (parseNumber cs).bind (fun n => [Width.w8, .w16, .w32, .w64].find? (fun W => W.bits == n))

/-- The size k written as 1, 2, 4 or 8 (30_encoding.md R91). -/
def parseSize (cs : List Char) : Option Size :=
  (parseNumber cs).bind (fun n => [Size.b1, .b2, .b4, .b8].find? (fun k => k.bytes == n))

/-- The field with a name. -/
def parseField (cs : List Char) : Option FieldId := FieldId.all.find? (fun f => (fieldName f).toList == cs)

/-- The text field with a name. -/
def parseText (cs : List Char) : Option TextField :=
  [TextField.aName, .aAuthorName, .fComment, .fHexId, .fSerial, .fDisplayName].find?
    (fun t => (textName t).toList == cs)

/-- A field operand: a name, and for an array register its index in brackets (30_encoding.md R91). -/
def parseFieldOperand (cs : List Char) : Option (FieldId × BitVec 5) :=
  match pieces '[' cs with
  | [name] => (parseField name).bind (fun f => if f.count = 1 then some (f, 0) else none)
  | [name, rest] =>
    (parseField name).bind (fun f =>
      if f.count = 1 ∨ rest.getLast? ≠ some ']' then none
      else (parseBits 5 rest.dropLast).map (fun i => (f, i)))
  | _ => none

/-! ## Operands by format (30_encoding.md R91) -/

def formZ (i : Instr) (operands : List (List Char)) : Option Instr := if operands = [] then some i else none

def formB (mk : Width → BitVec 6 → BitVec 7 → Instr) (operands : List (List Char)) : Option Instr :=
  match operands with
  | [W, o, n] => (parseWidth W).bind (fun W => (parseBits 6 o).bind (fun o => (parseBits 7 n).map (fun n => mk W o n)))
  | _ => none

def formM (mk : Size → BitVec 9 → Instr) (operands : List (List Char)) : Option Instr :=
  match operands with
  | [k, off] => (parseSize k).bind (fun k => (parseBits 9 off).map (fun off => mk k off))
  | _ => none

def formC (mk : BitVec 9 → BitVec 9 → Instr) (operands : List (List Char)) : Option Instr :=
  match operands with
  | [off, len] => (parseBits 9 off).bind (fun off => (parseBits 9 len).map (fun len => mk off len))
  | _ => none

def formF (mk : FieldId → BitVec 5 → Instr) (operands : List (List Char)) : Option Instr :=
  match operands with
  | [f] => (parseFieldOperand f).map (fun p => mk p.1 p.2)
  | _ => none

def formT (mk : TextField → Instr) (operands : List (List Char)) : Option Instr :=
  match operands with
  | [t] => (parseText t).map mk
  | _ => none

/-- The mnemonics (30_encoding.md R87) and the two pseudo-instructions (R93), each with its operands' form. -/
def commandForms : List (String × (List (List Char) → Option Instr)) :=
  [("BF.EXT", formB .bfExt),
   ("BF.PACK", formB .bfPack),
   ("LDI.LE", formM .ldiLe),
   ("LDI.BE", formM .ldiBe),
   ("STI.LE", formM .stiLe),
   ("STI.BE", formM .stiBe),
   ("AVA.DEC", formZ .avaDec),
   ("AVA.ENC", formZ .avaEnc),
   ("CAV.DEC", formZ .cavDec),
   ("CAV.ENC", formZ .cavEnc),
   ("FRD.DEC", formZ .frdDec),
   ("FRD.ENC", formZ .frdEnc),
   ("FLD.GET", formF .fldGet),
   ("FLD.SET", formF .fldSet),
   ("REC.ZERO", formZ .recZero),
   ("TXT.DEC", formT .txtDec),
   ("TXT.ENC", formT .txtEnc),
   ("CRC16", formC .crc16),
   ("CRC.VFY", formZ .crcVfy),
   ("CRC.FIX", formZ .crcFix),
   ("CHK.DGT", formZ .chkDgt),
   ("SEAL", formZ .crcFix),
   ("VERIFY", formZ .crcVfy)]

/-- A command: the mnemonic, then its operands separated by commas (30_encoding.md R91). -/
def parseCommand (name : List Char) (operands : List (List Char)) : Option Instr :=
  (commandForms.find? (fun row => row.1.toList == name)).bind (fun row => row.2 operands)

/-- The bytes of `.frame`: two hexadecimal digits each. -/
def parseHexBytes : List (List Char) → Option (List Byte)
  | [] => some []
  | [a, b] :: rest =>
    (parseDigits 16 [a, b]).bind (fun n => (parseHexBytes rest).map (fun bs => BitVec.ofNat 8 n :: bs))
  | _ :: _ => none

/-- The operand of `.frame`: the hex bytes, or `zero N` (30_encoding.md R92). -/
def parseFrame (rest : List Char) : Option (List Byte) :=
  let words := (pieces ' ' rest).filter (fun w => w != [])
  match words with
  | [w, n] =>
    if w = "zero".toList then (parseNumber n).map (fun n => List.replicate n 0) else parseHexBytes words
  | _ => parseHexBytes words

/-- The operand of `.text`: the characters between the quotes, one byte each, ASCII (30_encoding.md R92). -/
def parseQuoted (rest : List Char) : Option (List Byte) :=
  match rest with
  | c :: cs =>
    let body := cs.takeWhile (fun c => c != quote)
    if c = quote ∧ cs.drop body.length = [quote] ∧ body.all (fun c => decide (c.toNat < 0x80)) then
      some (body.map (fun c => BitVec.ofNat 8 c.toNat))
    else none
  | [] => none

/-- A directive (30_encoding.md R92), but `.expect`, whose spelling the spec does not give (log 16). -/
def parseDirective (name rest : List Char) (operands : List (List Char)) : Option Input :=
  if name = ".frame".toList then (parseFrame rest).map Input.frame
  else if name = ".text".toList then (parseQuoted rest).map Input.text
  else if name = ".setx".toList then
    match operands with
    | [i, v] => (parseX i).bind (fun i => (parseBits 64 v).map (fun v => Input.setx i v))
    | _ => none
  else if name = ".movx".toList then
    match operands with
    | [i, j] => (parseX i).bind (fun i => (parseX j).map (fun j => Input.movx i j))
    | _ => none
  else none

/-- One line of a program's text. -/
def parseLine (cs : List Char) : Option Line :=
  let line := trim (stripComment false cs)
  let name := line.takeWhile (fun c => c != ' ')
  let rest := trim (line.drop name.length)
  let operands := if rest = [] then [] else (pieces ',' rest).map trim
  if name.head? = some '.' then (parseDirective name rest operands).map Line.directive
  else (parseCommand name operands).map Line.command

/-- The assembler: a command's text to its word (30_encoding.md R91); none where it is no command. -/
def assemble (text : String) : Option Command :=
  match parseLine text.toList with
  | some (.command i) => some (encode i)
  | _ => none

end Sys2Proof.Machine
end

