-- ==== Sys2Proof/Tests/Slice0.lean ====
section
/-! SUPPORT. Tests, each on one step or less, with the source of its expected result; and for every obligation that has
hypotheses a witness that they can be met, clause by clause. -/

namespace Sys2Proof.Tests

open Sys2Proof Sys2Proof.Machine

/-! ## Helpers -/

/-- The state an instruction leaves. -/
def after (i : Instr) (s : State) : State :=
  match exec i s with
  | .next t => t
  | .fault _ => s
  | .refused _ => s

/-- The state an input leaves. -/
def afterInput (a : Input) (s : State) : State :=
  match runInput a s with
  | .next t => t
  | .fault _ => s
  | .refused _ => s

def framed (bs : List Byte) : State := State.reset.presentFrame bs
def texted (bs : List Byte) : State := State.reset.presentText bs

/-- V-REC-1's frame of 0x60 bytes (95_test_vectors.md). -/
def sampleCav : List Byte :=
  [0x03, 0x19, 0x93, 0x40, 0x01, 0x23, 0x45, 0x67, 0x89, 0xAB, 0xCD, 0xEF, 0xCA, 0xFE, 0x00, 0x01] ++
  [0x00, 0x17, 0xAB, 0x12, 0x34, 0x56, 0x00, 0x00, 0x5F, 0x39, 0x54, 0x00, 0x72, 0x00, 0x61, 0x00] ++
  [0x63, 0x00, 0x65, 0x00, 0x00, 0x00, 0x00, 0x00, 0x00, 0x00, 0x00, 0x00, 0x00, 0x00, 0x40, 0x30] ++
  [0x46, 0x21, 0x21, 0x0D, 0x18, 0x44, 0x68, 0x42, 0x14, 0x46, 0x34, 0x26, 0x12, 0x81, 0x68, 0x17] ++
  [0x00, 0x0D, 0x29, 0x00, 0x52, 0x01, 0xA0, 0x88, 0x41, 0x00, 0x42, 0x00, 0x00, 0x00, 0x00, 0x00] ++
  [0x00, 0x00, 0x00, 0x00, 0x00, 0x00, 0x00, 0x00, 0x00, 0x00, 0x00, 0x00, 0x00, 0x00, 0xD8, 0x35]

/-- A presented length alone. -/
def ofLength (n : BitVec 16) : State := { State.reset with flen := n }

/-! ## WellFormed: an ill-formed term for each check, refused -/

theorem test_wellFormed_refuses_width_0 : (Instr.bfExt .w8 0 0).wellFormed = false := by decide
theorem test_wellFormed_refuses_past_the_word : (Instr.bfExt .w8 4 5).wellFormed = false := by decide
theorem test_wellFormed_refuses_pack_width_0 : (Instr.bfPack .w16 0 0).wellFormed = false := by decide
theorem test_wellFormed_refuses_pack_past_the_word : (Instr.bfPack .w64 0 65).wellFormed = false := by decide
theorem test_wellFormed_refuses_get_past_the_array : (Instr.fldGet (.reg .aMac) 6).wellFormed = false := by decide
theorem test_wellFormed_refuses_get_index_of_a_scalar : (Instr.fldGet (.reg .aMagic) 1).wellFormed = false := by decide
theorem test_wellFormed_refuses_get_index_of_a_sub_field :
    (Instr.fldGet (.sub .optionsAllowCopy) 1).wellFormed = false := by decide
theorem test_wellFormed_refuses_set_past_the_array : (Instr.fldSet (.reg .fPad11B) 5).wellFormed = false := by decide
theorem test_wellFormed_refuses_set_index_of_a_sub_field :
    (Instr.fldSet (.sub .moleYpos) 1).wellFormed = false := by decide
theorem test_wellFormed_takes_the_boundaries :
    (Instr.bfExt .w64 63 1).wellFormed ∧ (Instr.bfPack .w64 0 64).wellFormed ∧
      (Instr.fldGet (.reg .fOpaque) 31).wellFormed ∧ (Instr.fldSet (.sub .moleYpos) 0).wellFormed := by decide

/-! ## Decoding: one word for every constructor, its fields written out from bit 31 down (30_encoding.md R81 to R87) -/

/- Format B: zeros 31:23, n 22:16, o 15:10, wsel 9:8, op 7:0. -/
theorem test_decode_bfExt : decode 0b000000000_0000101_000101_01_00000001 = .ok (.bfExt .w16 5 5) := by decide
theorem test_decode_bfPack : decode 0b000000000_0000100_111100_11_00000010 = .ok (.bfPack .w64 60 4) := by decide
/- Format M: zeros 31:19, sz 18:17, off 16:8, op 7:0. -/
theorem test_decode_ldiLe : decode 0b0000000000000_11_100011000_00001000 = .ok (.ldiLe .b8 0x118) := by decide
theorem test_decode_ldiBe : decode 0b0000000000000_01_100011001_00001001 = .ok (.ldiBe .b2 0x119) := by decide
theorem test_decode_stiLe : decode 0b0000000000000_10_000000001_00001010 = .ok (.stiLe .b4 1) := by decide
theorem test_decode_stiBe : decode 0b0000000000000_00_001011110_00001011 = .ok (.stiBe .b1 0x5E) := by decide
/- Format Z: zeros 31:8, op 7:0. -/
theorem test_decode_avaDec : decode 0b000000000000000000000000_00010000 = .ok .avaDec := by decide
theorem test_decode_avaEnc : decode 0b000000000000000000000000_00010001 = .ok .avaEnc := by decide
theorem test_decode_cavDec : decode 0b000000000000000000000000_00010010 = .ok .cavDec := by decide
theorem test_decode_cavEnc : decode 0b000000000000000000000000_00010011 = .ok .cavEnc := by decide
theorem test_decode_frdDec : decode 0b000000000000000000000000_00010100 = .ok .frdDec := by decide
theorem test_decode_frdEnc : decode 0b000000000000000000000000_00010101 = .ok .frdEnc := by decide
theorem test_decode_recZero : decode 0b000000000000000000000000_00011010 = .ok .recZero := by decide
theorem test_decode_crcVfy : decode 0b000000000000000000000000_00110001 = .ok .crcVfy := by decide
theorem test_decode_crcFix : decode 0b000000000000000000000000_00110010 = .ok .crcFix := by decide
theorem test_decode_chkDgt : decode 0b000000000000000000000000_00111000 = .ok .chkDgt := by decide
/- Format F: zeros 31:21, idx 20:16, fid 15:8, op 7:0. -/
theorem test_decode_fldGet : decode 0b00000000000_11111_00100011_00011000 = .ok (.fldGet (.reg .fOpaque) 31) := by
  decide +kernel
theorem test_decode_fldSet : decode 0b00000000000_00000_01001011_00011001 = .ok (.fldSet (.sub .detailsShirtColor) 0) := by
  decide +kernel
/- Format T: zeros 31:11, tid 10:8, op 7:0. -/
theorem test_decode_txtDec : decode 0b000000000000000000000_101_00100000 = .ok (.txtDec .fDisplayName) := by decide
theorem test_decode_txtEnc : decode 0b000000000000000000000_001_00100001 = .ok (.txtEnc .aAuthorName) := by decide
/- Format C: zeros 31:26, len 25:17, off 16:8, op 7:0. -/
theorem test_decode_crc16 : decode 0b000000_001011110_010111011_00110000 = .ok (.crc16 0xBB 0x5E) := by decide

/-! The words of V-ILL (95_test_vectors.md), rejected by name. -/

theorem test_rejects_unassigned_op :
    [0x00000000, 0x000000FF, 0x00000003, 0x00000016, 0x0000001B, 0x00000033, 0x00000039].map decode =
      List.replicate 7 (.error .unassignedOp) := by decide
theorem test_rejects_must_be_zero :
    [0x00810001, 0x00080008, 0x04000030, 0x00000110, 0x80000010, 0x01000031, 0x00200018, 0x00000820].map decode =
      List.replicate 8 (.error .mustBeZero) := by decide
theorem test_rejects_bad_bit_field :
    [0x00000001, 0x00000101, 0x00051001, 0x00023D01, 0x00410301].map decode =
      List.replicate 5 (.error .badBitField) := by decide
theorem test_rejects_unassigned_field :
    [0x00001B18, 0x00001F18, 0x00003218, 0x00003F18, 0x00007918, 0x0000FF18].map decode =
      List.replicate 6 (.error .unassignedField) := by decide +kernel
theorem test_rejects_bad_index :
    [0x00010018, 0x00014018, 0x00060618, 0x000A0918, 0x00102418, 0x00053118].map decode =
      List.replicate 6 (.error .badIndex) := by decide +kernel
theorem test_rejects_unassigned_text :
    [0x00000620, 0x00000720].map decode = List.replicate 2 (.error .unassignedText) := by decide
/-- The boundary words of V-ILL that are legal. -/
theorem test_takes_boundary_words :
    ([0x00050618, 0x00090918, 0x000F2418, 0x00043118, 0x00001A18, 0x00007818, 0x00004018, 0x00000520, 0x0001FF01,
      0x00400301, 0x00012030, 0x02400030, 0x03FFFF30].map (fun w => (decode w).toOption.isSome)).all id = true := by
  decide +kernel

/-- `decodeTableWord` reads the low `nbits` bits and no others (log 5). -/
theorem test_decodeTableWord : decodeTableWord 32 0x00051501 = some (.bfExt .w16 5 5) ∧
    decodeTableWord 8 0x112 = some .cavDec ∧ decodeTableWord 32 0 = none := by decide

/-! ## The words of the assembler (30_encoding.md R91 to R93; the words stand in 95_test_vectors.md) -/

theorem test_assemble_bfExt : assemble "BF.EXT 16, 5, 5 ; five bits" = some 0x00051501 := by decide +kernel
theorem test_assemble_fldGet : assemble "FLD.GET A.mac[3]" = some 0x00030618 := by decide +kernel
theorem test_assemble_fldSet : assemble "FLD.SET A.details.shirt_color" = some 0x00004B19 := by decide +kernel
theorem test_assemble_ldiBe : assemble "LDI.BE 2, 0x119" = some 0x00031909 := by decide +kernel
theorem test_assemble_txtEnc : assemble "TXT.ENC F.display_name" = some 0x00000521 := by decide +kernel
theorem test_assemble_crc16 : assemble "CRC16 0xBB, 0x5E" = some 0x00BCBB30 := by decide +kernel
theorem test_assemble_pseudo : assemble "SEAL" = some 0x00000032 ∧ assemble "VERIFY" = some 0x00000031 := by
  decide +kernel
theorem test_assemble_refuses_array_without_index : assemble "FLD.GET A.mac" = none := by decide +kernel
theorem test_parse_frame_zero :
    parseLine ".frame zero 4".toList = some (.directive (.frame [0, 0, 0, 0])) := by decide +kernel
theorem test_parse_movx : parseLine ".movx 0, 2".toList = some (.directive (.movx 0 2)) := by decide +kernel
/-- `.expect` is a host action that reads, and its comparison. -/
theorem test_expect : checkAction (.eflags 0xCE) = .status ∧
    checkHolds (.eflags 0xCE) (.status 0 0xCE 0 0x5F 11) = true ∧
    checkHolds (.eflags 0x0E) (.status 0 0xCE 0 0x5F 11) = false := by decide

/-! ## The instructions: at most two tests each (95_test_vectors.md, Part 2) -/

/-- V-BF. -/
theorem test_bfExt : (after (.bfExt .w16 5 5) { State.reset with x0 := 0x5F39 }).x2 = 0x19 := by decide
/-- V-BF: the operand is wider than W. -/
theorem test_bfExt_contract :
    after (.bfExt .w8 0 8) { State.reset with x0 := 0x100, x2 := 5 } =
      { State.reset with x0 := 0x100, x2 := 5, err := 7, eflags := 0x80 } := by decide
/-- V-BF. -/
theorem test_bfPack : (after (.bfPack .w16 5 5) { State.reset with x0 := 0xFFFF, x1 := 0x0B }).x2 = 0xFD7F := by decide
/-- V-BF: ContractFault before RangeError. -/
theorem test_bfPack_priority :
    (after (.bfPack .w16 0 4) { State.reset with x0 := 0x12345, x1 := 0x10 }).err = 7 := by decide

/-- V-INT's frame of nine bytes. -/
def nine : State := framed [0x11, 0x22, 0x33, 0x44, 0x55, 0x66, 0x77, 0x88, 0x99]

theorem test_ldiLe : (after (.ldiLe .b4 3) nine).x2 = 0x77665544 := by decide
theorem test_ldiLe_bound : (after (.ldiLe .b1 9) nine).err = 7 ∧ (after (.ldiLe .b1 8) nine).x2 = 0x99 := by decide
theorem test_ldiBe : (after (.ldiBe .b8 1) nine).x2 = 0x2233445566778899 := by decide
theorem test_ldiBe_bound : (after (.ldiBe .b8 2) nine).err = 7 := by decide
/-- V-INT, stores. -/
theorem test_stiLe : (after (.stiLe .b2 1) { framed [0, 0, 0, 0] with x1 := 0x1234 }).fb = [(1, 0x34), (2, 0x12)] := by
  decide
theorem test_stiLe_range : (after (.stiLe .b2 2) { framed [0, 0, 0, 0] with x1 := 0x10000 }).err = 2 ∧
    (after (.stiLe .b2 3) { framed [0, 0, 0, 0] with x1 := 0x10000 }).err = 7 := by decide
theorem test_stiBe : (after (.stiBe .b2 1) { framed [0, 0, 0, 0] with x1 := 0x1234 }).fb = [(1, 0x12), (2, 0x34)] := by
  decide
theorem test_stiBe_all_ones :
    (after (.stiBe .b4 0) { framed [0, 0, 0, 0] with x1 := 0xDEADBEEF }).fb =
      [(0, 0xDE), (1, 0xAD), (2, 0xBE), (3, 0xEF)] := by decide

/-- V-REC-1: the first 0x5C bytes decode by AVA.DEC; A.eye is big-endian, the name units little-endian. -/
theorem test_avaDec :
    let t := after .avaDec (framed (sampleCav.take 0x5C))
    t.err = 0 ∧ t.record.a.eye = 0x18446842 ∧ t.record.a.name[1] = 0x72 := by decide +kernel
/-- V-REC-5: 0x60 bytes are refused by AVA.DEC. -/
theorem test_avaDec_size : (after .avaDec (framed sampleCav)).err = 1 := by decide +kernel
/-- V-REC-1: A.system_id at 0x04, big-endian. -/
theorem test_avaEnc :
    let t := after .avaEnc { State.reset with record := RecFile.zero.write .aSystemId 0 0x0123456789ABCDEF }
    t.flen = 0x5C ∧ t.fb.readList 4 8 = [0x01, 0x23, 0x45, 0x67, 0x89, 0xAB, 0xCD, 0xEF] := by decide +kernel
/-- V-REC-1: the stored checksum and the details. -/
theorem test_cavDec :
    let t := after .cavDec (framed sampleCav)
    t.record.cChecksum = 0xD835 ∧ t.record.a.details = 0x5F39 := by decide +kernel
/-- V-REC-5: 0x120 bytes are refused by CAV.DEC. -/
theorem test_cavDec_size : (after .cavDec (ofLength 0x120)).err = 1 ∧ (after .cavDec (ofLength 0x60)).err = 0 := by
  decide +kernel
/-- S1: encode after decode gives the frame back. -/
theorem test_cavEnc :
    let t := after .cavEnc { after .cavDec (framed sampleCav) with fb := [] }
    t.flen = 0x60 ∧ t.fb.readList 0 0x60 = sampleCav := by decide +kernel
/-- V-REC-2 and V-REC-3, of whose frame these bytes are: F.magic and F.local_seed, little-endian, F.serial[9], and the
checksum of the embedded record, big-endian. -/
theorem test_frdDec :
    let t := after .frdDec { ofLength 0x120 with
      fb := [(0x00, 0x44), (0x01, 0x33), (0x02, 0x22), (0x03, 0x11), (0x60, 0x88), (0x67, 0x11), (0x94, 0x38), (0x119, 0xD8),
        (0x11A, 0x35)] }
    t.record.f.magic = 0x11223344 ∧ t.record.f.localSeed = 0x1100000000000088 ∧ t.record.f.serial[9] = 0x38 ∧
      t.record.cChecksum = 0xD835 := by decide +kernel
/-- V-REC-5: 0x121 bytes are refused, and 0x11F. -/
theorem test_frdDec_size : (after .frdDec (ofLength 0x121)).err = 1 ∧ (after .frdDec (ofLength 0x11F)).err = 1 := by
  decide +kernel
/-- P3: the frame after line 9 of a record with F.magic, F.display_name[0], A.height and C.checksum as there. -/
theorem test_frdEnc :
    let r := RecFile.zero.write .fMagic 0 0x11223344 |>.write .fDisplayName 0 0x54 |>.write .aHeight 0 1 |>.write .cChecksum 0 0xEAE1
    let t := after .frdEnc { State.reset with record := r }
    t.flen = 0x120 ∧ t.fb = [(0x00, 0x44), (0x01, 0x33), (0x02, 0x22), (0x03, 0x11), (0xA2, 0x54), (0xE9, 0x01),
      (0x119, 0xEA), (0x11A, 0xE1)] := by decide +kernel

/-- V-REC-2. -/
theorem test_fldGet_sub : (after (.fldGet (.sub .detailsBdayDay) 0)
    { State.reset with record := RecFile.zero.write .aDetails 0 0x5F39 }).x2 = 0x19 := by decide
theorem test_fldGet_element : (after (.fldGet (.reg .aMac) 3)
    { State.reset with record := RecFile.zero.write .aMac 3 0x12 }).x2 = 0x12 := by decide
/-- V-REC-4: a sub-field write leaves the other bits; a value too large is refused. -/
theorem test_fldSet_sub : (after (.fldSet (.sub .detailsShirtColor) 0)
    { State.reset with x1 := 3, record := RecFile.zero.write .aDetails 0 0x5F39 }).record.a.details = 0x4F39 := by decide
theorem test_fldSet_range : (after (.fldSet (.reg .aName) 9) { State.reset with x1 := 0x10000 }).err = 2 := by decide

/-- V-TXT: high bytes are dropped, a non-zero unit with a zero low byte does not stop the string. -/
theorem test_txtDec :
    let r := ((RecFile.zero.write .aName 0 0x3042).write .aName 1 0x0100).write .aName 2 0xFF41
    let t := after (.txtDec .aName) { State.reset with record := r }
    t.tlen = 3 ∧ t.tb.readList 0 3 = [0x42, 0x00, 0x41] := by decide
/-- V-TXT: no terminator in a full field. -/
theorem test_txtDec_stops : (after (.txtDec .aAuthorName)
    { State.reset with record := (RecFile.zero.write .aAuthorName 0 0x41).write .aAuthorName 2 0x42 }).tlen = 1 := by decide
/-- V-TXT: the units after the string are cleared. -/
theorem test_txtEnc :
    (after (.txtEnc .aAuthorName) { texted [0x41, 0x42] with
      record := RecFile.zero.setUnits .aAuthorName (fun _ => 0xFFFF) }).record.a.authorName =
        #v[0x41, 0x42, 0, 0, 0, 0, 0, 0, 0, 0] := by decide
/-- V-TXT: eleven characters do not fit A.name. -/
theorem test_txtEnc_length : (after (.txtEnc .aName) (texted (List.replicate 11 0x41))).err = 3 ∧
    (after (.txtEnc .fDisplayName) (texted (List.replicate 11 0x41))).err = 0 := by decide +kernel

set_option maxRecDepth 10000 in
/-- V-CRC: the check value of "123456789", its residue, a single byte, and 94 bytes of 0xFF. -/
theorem test_crc16_function : crc16 [0x31, 0x32, 0x33, 0x34, 0x35, 0x36, 0x37, 0x38, 0x39] = 0x31C3 ∧
    crc16 [0x31, 0x32, 0x33, 0x34, 0x35, 0x36, 0x37, 0x38, 0x39, 0x31, 0xC3] = 0 ∧ crc16 [0x80] = 0x9188 ∧
    crc16 (List.replicate 94 0xFF) = 0x003A := by decide +kernel
/-- V-CRC: a middle range; out of bounds. -/
theorem test_crc16 :
    let s := framed [0x31, 0x32, 0x33, 0x34, 0x35, 0x36, 0x37, 0x38, 0x39]
    (after (.crc16 3 3) s).x2 = 0xB590 ∧ (after (.crc16 9 0) s).err = 0 ∧ (after (.crc16 10 0) s).err = 7 := by
  decide +kernel
set_option maxRecDepth 10000 in
/-- P1 lines 3 and 8: valid, then stale after a field write. -/
theorem test_crcVfy :
    let t := after .cavDec (framed sampleCav)
    let u := after .crcVfy { t with record := t.record.write .aDetails 0 0x4F39 }
    (after .crcVfy t).x2 = 1 ∧ u.x2 = 0 ∧ u.crc = 0xF2B2 ∧ u.err = 0 := by decide +kernel
set_option maxRecDepth 10000 in
/-- S3 step 5. -/
theorem test_crcFix :
    let t := after .crcFix { State.reset with record := RecFile.zero.write .aHeight 0 1 }
    t.record.cChecksum = 0xEAE1 ∧ t.crc = 0xEAE1 := by decide +kernel
set_option maxRecDepth 10000 in
/-- S3 step 1. -/
theorem test_recZero : (after .recZero { State.reset with crc := 0xABCD, record := RecFile.zero.write .aEye 0 7 }) =
    State.reset := by decide +kernel
/-- S5; and the case that 10 maps to 0 (V-CRC). -/
theorem test_chkDgt : (after .chkDgt (texted [0x30, 0x30, 0x31, 0x32, 0x33, 0x34, 0x35, 0x36, 0x37, 0x38])).x2 = 4 ∧
    (after .chkDgt (texted [0x30, 0x30, 0x31, 0x33, 0x30, 0x30, 0x30, 0x30, 0x30, 0x30])).x2 = 0 := by decide
/-- V-CRC: eleven characters, and a character that is no digit. -/
theorem test_chkDgt_contract :
    (after .chkDgt (texted [0x30, 0x30, 0x31, 0x32, 0x33, 0x34, 0x35, 0x36, 0x37, 0x38, 0x39])).err = 7 ∧
      (after .chkDgt (texted [0x30, 0x30, 0x31, 0x32, 0x33, 0x34, 0x35, 0x36, 0x37, 0x61])).err = 7 := by decide

/-! ## Host actions, and status (20_memory.md R60 to R66; V-EXC; P4) -/

/-- An illegal word is judged before the operand contract (V-EXC). -/
theorem test_issue_illegal :
    afterInput (.issue 0x00051001) { State.reset with x0 := 0x100 } =
      { State.reset with x0 := 0x100, err := 6, eflags := 0x40 } := by decide
/-- P4 lines 9 and 10: a success sets ERR to 0 and leaves EFLAGS. -/
theorem test_success_keeps_eflags :
    (after (.ldiLe .b8 0) { nine with err := 7, eflags := 0xCE }).err = 0 ∧
      (after (.ldiLe .b8 0) { nine with err := 7, eflags := 0xCE }).eflags = 0xCE := by decide
/-- V-REC-5: FLEN counts what is not stored. -/
theorem test_frame_longer_than_FB :
    let t := framed (List.replicate 0x121 0xEE)
    t.flen = 0x121 ∧ t.window = 0x120 ∧ t.fb.length = 0x120 := by decide +kernel
/-- R61, R64: the saturation of the two lengths (V-REC-5: 70000 gives 0xFFFF; V-TXT: 300 gives 255). -/
theorem test_lengths_saturate (bs : List Byte) (h : bs.length = 70000) : (framed bs).flen = 0xFFFF ∧
    (texted bs).tlen = 0xFF := by simp [framed, texted, h]
/-- P5 line 3: a shorter string leaves the rest of TB. -/
theorem test_text_keeps_the_rest :
    ((texted [0x30, 0x31, 0x32]).presentText [0x39]).tb = [(0, 0x39), (1, 0x31), (2, 0x32)] := by decide
/-- P2 line 3. -/
theorem test_movx : (afterInput (.movx 0 2) { State.reset with x2 := 0x5F39 }).x0 = 0x5F39 := by decide
/-- R65. -/
theorem test_status : (afterInput .status { nine with err := 2, eflags := 4, crc := 9 }).replies = [.status 2 4 9 9 0] := by
  decide
/-- R62, R64. -/
theorem test_reads : (afterInput .read (framed [1, 0, 3])).replies = [.frame [1, 0, 3] 3] ∧
    (afterInput .rtext (texted [0x41])).replies = [.text [0x41] 1] := by decide
/-- R190. -/
theorem test_reset : (afterInput .reset { nine with x1 := 4, eflags := 2 }) = State.reset := by decide
/-- The host's port: a program of two words runs word by word. -/
theorem test_step_runs_the_word : step ((texted [0x31]).withFetchWord 32 0x00000038) =
    .next { texted [0x31] with err := 7, eflags := 0x80 } := rfl

/-! ## Witnesses: the hypotheses of the obligations can be met -/

theorem witness_DecodeOfEncode : (Instr.bfExt .w64 63 1).WellFormed := by decide
theorem witness_EncodeOfDecode : decode 0x0001FF01 = .ok (.bfExt .w64 63 1) := by decide
theorem witness_IllegalWordRaisesIllegalOp : ¬ LegalWord 0x00051001 := by
  rintro ⟨row, hm, h, hc⟩
  simp only [opcodeTable, List.mem_cons, List.not_mem_nil, or_false] at hm
  rcases hm with rfl | rfl | rfl | rfl | rfl | rfl | rfl | rfl | rfl | rfl | rfl | rfl | rfl | rfl | rfl | rfl | rfl |
    rfl | rfl | rfl | rfl <;> first | exact absurd h (by decide) | exact absurd hc.2 (by decide)
theorem witness_StepRunsTheDecodedInstruction_input : (State.reset.issueNext 0).inputs = .issue 0 :: [] := by decide
theorem witness_StepRunsTheDecodedInstruction : (State.reset.issueNext 0x12).inputs = .issue 0x12 :: [] ∧
    decode 0x12 = .ok .cavDec := by decide
theorem witness_IdleBlockWaits : State.reset.inputs = [] := by decide

theorem witness_ExtractIsTheBitRange : InField 64 63 1 ∧ InField 8 0 8 := by decide
theorem witness_PackReplacesTheBitRange_too_large : InField 16 5 5 ∧ 2 ^ 5 - 1 < 0x20 := by decide
theorem witness_PackReplacesTheBitRange_fits : InField 16 5 5 ∧ 0x1F ≤ 2 ^ 5 - 1 := by decide
theorem witness_BitFieldLaws : InField 16 5 5 ∧ 0x1F < 2 ^ 5 ∧ 4 < 5 ∧ InField 16 0 5 ∧ 0 + 5 ≤ 5 ∧ InField 16 10 4 ∧
    5 + 5 ≤ 10 := by decide
theorem witness_BitFieldLaws_whole : InField 8 0 8 ∧ (0 : Nat) = 0 ∧ (8 : Nat) = 8 ∧ 0xFF < 2 ^ 8 := by decide

theorem witness_BfExtRule_ok : 1 ≤ (1 : BitVec 7).toNat ∧ (63 : BitVec 6).toNat + (1 : BitVec 7).toNat ≤ Width.w64.bits ∧
    ({ State.reset with x0 := 0xFFFFFFFFFFFFFFFF } : State).x0.toNat < 2 ^ Width.w64.bits := by decide
theorem witness_BfExtRule_contract : 1 ≤ (8 : BitVec 7).toNat ∧ (0 : BitVec 6).toNat + (8 : BitVec 7).toNat ≤ Width.w8.bits ∧
    2 ^ Width.w8.bits ≤ ({ State.reset with x0 := 0x100 } : State).x0.toNat := by decide
theorem witness_BfExtRule_illegal :
    ¬ (1 ≤ (5 : BitVec 7).toNat ∧ (4 : BitVec 6).toNat + (5 : BitVec 7).toNat ≤ Width.w8.bits) ∧
      ¬ (1 ≤ (0 : BitVec 7).toNat ∧ (0 : BitVec 6).toNat + (0 : BitVec 7).toNat ≤ Width.w8.bits) := by decide
theorem witness_BfPackRule_ok : 1 ≤ (5 : BitVec 7).toNat ∧ (5 : BitVec 6).toNat + (5 : BitVec 7).toNat ≤ Width.w16.bits ∧
    ({ State.reset with x0 := 0xFFFF, x1 := 0x1F } : State).x0.toNat < 2 ^ Width.w16.bits ∧
    ({ State.reset with x0 := 0xFFFF, x1 := 0x1F } : State).x1.toNat ≤ 2 ^ (5 : BitVec 7).toNat - 1 := by decide
theorem witness_BfPackRule_range : 1 ≤ (5 : BitVec 7).toNat ∧ (5 : BitVec 6).toNat + (5 : BitVec 7).toNat ≤ Width.w16.bits ∧
    ({ State.reset with x0 := 0, x1 := 0x20 } : State).x0.toNat < 2 ^ Width.w16.bits ∧
    2 ^ (5 : BitVec 7).toNat - 1 < ({ State.reset with x0 := 0, x1 := 0x20 } : State).x1.toNat := by decide
theorem witness_BfPackRule_contract : 1 ≤ (4 : BitVec 7).toNat ∧ (0 : BitVec 6).toNat + (4 : BitVec 7).toNat ≤ Width.w16.bits ∧
    2 ^ Width.w16.bits ≤ ({ State.reset with x0 := 0x10000 } : State).x0.toNat := by decide
theorem witness_BfPackRule_illegal :
    ¬ (1 ≤ (2 : BitVec 7).toNat ∧ (15 : BitVec 6).toNat + (2 : BitVec 7).toNat ≤ Width.w16.bits) := by decide

theorem witness_IntegerEncodeInverts : 0xFFFF < 256 ^ 2 ∧ 1 < 2 := by decide
theorem witness_LoadRules_ok : (8 : BitVec 9).toNat + Size.b1.bytes ≤ min nine.flen.toNat 0x120 := by decide
theorem witness_LoadRules_last_of_the_frame :
    (0x118 : BitVec 9).toNat + Size.b8.bytes ≤ min ({ nine with flen := 0xFFFF } : State).flen.toNat 0x120 := by decide
theorem witness_LoadRules_bound : min nine.flen.toNat 0x120 < (9 : BitVec 9).toNat + Size.b1.bytes := by decide
theorem witness_StoreRules_ok : (1 : BitVec 9).toNat + Size.b8.bytes ≤ min nine.flen.toNat 0x120 ∧
    ({ nine with x1 := 0xFFFFFFFFFFFFFFFF } : State).x1.toNat < 2 ^ (8 * Size.b8.bytes) ∧ 7 < Size.b8.bytes := by decide
theorem witness_StoreRules_range : (8 : BitVec 9).toNat + Size.b1.bytes ≤ min nine.flen.toNat 0x120 ∧
    2 ^ (8 * Size.b1.bytes) ≤ ({ nine with x1 := 0x100 } : State).x1.toNat := by decide
theorem witness_StoreRules_bound : min nine.flen.toNat 0x120 < (8 : BitVec 9).toNat + Size.b2.bytes := by decide
theorem witness_StoreThenLoadReturnsTheValue : (7 : BitVec 9).toNat + Size.b2.bytes ≤ min nine.flen.toNat 0x120 ∧
    ({ nine with x1 := 0xFFFF } : State).x1.toNat < 2 ^ (8 * Size.b2.bytes) := by decide

theorem witness_AvaDecRule_ok : (ofLength 0x5C).flen.toNat = 0x5C ∧ Reg.aMagic ∈ Reg.avatar := by decide
theorem witness_AvaDecRule_size : (ofLength 0x5B).flen.toNat ≠ 0x5C ∧ (ofLength 0x60).flen.toNat ≠ 0x5C := by decide
theorem witness_CavDecRule_ok : (ofLength 0x60).flen.toNat = 0x60 ∧ Reg.cChecksum ∈ Reg.avatar ++ Reg.wrapper := by decide
theorem witness_CavDecRule_size : (ofLength 0x5F).flen.toNat ≠ 0x60 ∧ (ofLength 0x5C).flen.toNat ≠ 0x60 := by decide
theorem witness_FrdDecRule_ok : (ofLength 0x120).flen.toNat = 0x120 ∧ Reg.fPad11B ∈ Reg.friend := by decide
theorem witness_FrdDecRule_size : (ofLength 0x11F).flen.toNat ≠ 0x120 ∧ (ofLength 0x121).flen.toNat ≠ 0x120 := by decide
theorem witness_EncRules : Reg.aAuthorName ∈ Reg.avatar ∧ Reg.cUnknown ∈ Reg.avatar ++ Reg.wrapper ∧
    Reg.fOpaque ∈ Reg.friend ∧ Reg.cUnknown ∈ Reg.avatar ++ [Reg.cUnknown] := by decide
theorem witness_DecodeThenEncodeKeepsTheFrame : (ofLength 0x5C).flen.toNat = 0x5C ∧ (ofLength 0x60).flen.toNat = 0x60 ∧
    (ofLength 0x120).flen.toNat = 0x120 := by decide

theorem witness_FldGetRule_register : (31 : BitVec 5).toNat < Reg.fOpaque.count := by decide
theorem witness_FldGetRule_sub_field : (0 : BitVec 5).toNat = 0 := by decide
theorem witness_FldGetRule_index : (FieldId.reg .aMac).count ≤ (6 : BitVec 5).toNat ∧
    (FieldId.sub .moleYpos).count ≤ (1 : BitVec 5).toNat := by decide
theorem witness_FldSetRule_register : (5 : BitVec 5).toNat < Reg.aMac.count ∧
    ({ State.reset with x1 := 0xFF } : State).x1.toNat < 2 ^ Reg.aMac.elemBits ∧ 4 < Reg.aMac.count ∧
    (Reg.aMac ≠ Reg.aMac ∨ 4 ≠ (5 : BitVec 5).toNat) := by decide
theorem witness_FldSetRule_sub_field : (0 : BitVec 5).toNat = 0 ∧
    ({ State.reset with x1 := 0x0F } : State).x1.toNat < 2 ^ SubField.detailsShirtColor.row.n ∧
    3 < SubField.detailsShirtColor.row.n ∧ 14 ≥ SubField.detailsShirtColor.row.o + SubField.detailsShirtColor.row.n := by
  decide
theorem witness_FldSetRule_range : (0 : BitVec 5).toNat < (FieldId.sub .detailsShirtColor).count ∧
    2 ^ (FieldId.sub .detailsShirtColor).bits ≤ ({ State.reset with x1 := 0x10 } : State).x1.toNat := by decide
theorem witness_FldSetRule_index : (FieldId.reg .fPad11B).count ≤ (5 : BitVec 5).toNat := by decide
theorem witness_FldSetThenGet : ∃ t, exec (.fldSet (.reg .aHeight) 0) { State.reset with x1 := 0xFF } = .next t ∧
    t.err = 0 := ⟨_, rfl, rfl⟩

theorem witness_TxtDecRule_units : RecFile.zero.read TextField.aName.reg 0 = 0 ∧ 0 < TextField.aName.capacity := by decide
theorem witness_TxtDecRule_tid : 6 ≤ (6 : BitVec 3).toNat ∧ 6 ≤ (7 : BitVec 3).toNat := by decide
theorem witness_TxtEncRule_fits : ({ State.reset with tlen := 10 } : State).tlen.toNat ≤ TextField.aName.capacity ∧
    9 < TextField.aName.capacity ∧ Reg.aAuthorName ≠ TextField.aName.reg := by decide
theorem witness_TxtEncRule_length : TextField.aName.capacity < ({ State.reset with tlen := 11 } : State).tlen.toNat := by
  decide
theorem witness_TxtEncRule_tid : 6 ≤ (6 : BitVec 3).toNat ∧ 6 ≤ (7 : BitVec 3).toNat := by decide
theorem witness_TextViewLaws : ([0x41, 0x42] : List Byte).length ≤ 2 ∧ (0 : Byte) ∉ [(0x41 : Byte), 0x42] := by decide

theorem witness_CrcIsLinear : ([0x41, 0x42] : List Byte).length = ([0x00, 0xFF] : List Byte).length := by decide
theorem witness_CrcDetectsAByteChange : (0x41 : Byte) ≠ 0x42 := by decide
theorem witness_Crc16Rule_ok : (0x120 : BitVec 9).toNat + (0 : BitVec 9).toNat ≤ min (ofLength 0x120).flen.toNat 0x120 ∧
    (0 : BitVec 9).toNat + (0x120 : BitVec 9).toNat ≤ min (ofLength 0x120).flen.toNat 0x120 := by decide
theorem witness_Crc16Rule_bound :
    min (ofLength 0x120).flen.toNat 0x120 < (0x120 : BitVec 9).toNat + (1 : BitVec 9).toNat ∧
      min (ofLength 0x200).flen.toNat 0x120 < (0x1FF : BitVec 9).toNat + (0x1FF : BitVec 9).toNat := by decide
theorem witness_CrcFixRule : ∃ t, exec .crcFix State.reset = .next t := ⟨_, rfl⟩
theorem witness_ChkDgtRule_ok :
    let s := texted [0x30, 0x30, 0x31, 0x32, 0x33, 0x34, 0x35, 0x36, 0x37, 0x39]
    s.tlen.toNat = 10 ∧ ∀ i < 10, 0x30 ≤ (s.tb.read i).toNat ∧ (s.tb.read i).toNat ≤ 0x39 := by decide
theorem witness_ChkDgtRule_length : (texted [0x30]).tlen.toNat ≠ 10 := by decide
theorem witness_ChkDgtRule_digit :
    let s := texted [0x30, 0x30, 0x31, 0x32, 0x33, 0x34, 0x35, 0x36, 0x2F, 0x3A]
    s.tlen.toNat = 10 ∧ (s.tb.read 8).toNat < 0x30 ∧ 0x39 < (s.tb.read 9).toNat := by decide

theorem witness_ExceptionsWriteOnlyTheStatus_illegal : ∃ t, issue 0 State.reset = .next t ∧ t.err ≠ 0 :=
  ⟨_, rfl, by decide⟩
theorem witness_ExceptionsWriteOnlyTheStatus_legal : ∃ t, issue 0x10 State.reset = .next t ∧ t.err ≠ 0 :=
  ⟨_, rfl, by decide⟩
theorem witness_EflagsIsSticky_raised : ∃ t, issue 0x38 State.reset = .next t ∧ t.err ≠ 0 := ⟨_, rfl, by decide⟩
theorem witness_EflagsIsSticky_success : ∃ t, issue 0x13 State.reset = .next t ∧ t.err = 0 := ⟨_, rfl, rfl⟩
theorem witness_EflagsIsSticky_kept : ∃ t, Input.status ≠ .reset ∧
    runInput .status { State.reset with eflags := 2 } = .next t ∧
    ({ State.reset with eflags := 2 } : State).eflags.getLsbD 1 = true := ⟨_, by decide, rfl, by decide⟩
theorem witness_EflagsIsSticky_never_set : ∃ t, runInput (.issue 0) State.reset = .next t ∧
    State.reset.eflags.getLsbD 5 = false := ⟨_, rfl, by decide⟩
theorem witness_OnlyListedExceptions : ∃ t, (Instr.txtEnc .aName).WellFormed ∧
    exec (.txtEnc .aName) { State.reset with tlen := 11 } = .next t := ⟨_, by decide, rfl⟩
theorem witness_PriorityOfCauses_illegal : ¬ LegalWord 0x00051001 := witness_IllegalWordRaisesIllegalOp
theorem witness_PriorityOfCauses_pack : 1 ≤ (4 : BitVec 7).toNat ∧ (0 : BitVec 6).toNat + (4 : BitVec 7).toNat ≤ Width.w16.bits ∧
    2 ^ Width.w16.bits ≤ ({ State.reset with x0 := 0x12345, x1 := 0x10 } : State).x0.toNat ∧
    2 ^ (4 : BitVec 7).toNat - 1 < ({ State.reset with x0 := 0x12345, x1 := 0x10 } : State).x1.toNat := by decide
theorem witness_PriorityOfCauses_store : min (ofLength 4).flen.toNat 0x120 < (3 : BitVec 9).toNat + Size.b2.bytes ∧
    2 ^ (8 * Size.b2.bytes) ≤ ({ ofLength 4 with x1 := 0x10000 } : State).x1.toNat := by decide

theorem witness_OnlyTheListedOperationsWrite_x2_crc :
    (after (.crc16 0 9) nine).x2 ≠ nine.x2 ∧ (after (.crc16 0 9) nine).crc ≠ nine.crc := by decide +kernel
theorem witness_OnlyTheListedOperationsWrite_fb_flen :
    (after .cavEnc nine).fb ≠ nine.fb ∧ (after .cavEnc nine).flen ≠ nine.flen := by decide +kernel
theorem witness_OnlyTheListedOperationsWrite_tb_tlen :
    let s : State := { State.reset with record := RecFile.zero.write .aName 0 0x41 }
    (after (.txtDec .aName) s).tb ≠ s.tb ∧ (after (.txtDec .aName) s).tlen ≠ s.tlen := by decide
theorem witness_OnlyTheListedOperationsWrite_record :
    let s : State := { State.reset with x1 := 1 }
    (after (.fldSet (.reg .aEye) 0) s).record ≠ s.record := by decide
theorem witness_ChecksumIsNeverFixedSilently_set :
    let s : State := { State.reset with x1 := 1 }
    (after (.fldSet (.reg .cChecksum) 0) s).record.cChecksum ≠ s.record.cChecksum := by decide
theorem witness_ChecksumIsNeverFixedSilently_fix :
    let s : State := { State.reset with record := RecFile.zero.write .aHeight 0 1 }
    (after .crcFix s).record.cChecksum ≠ s.record.cChecksum :=
  fun h => absurd (test_crcFix.1.symm.trans h) (by decide)
theorem witness_ResultsIgnoreStatusAndOldResults : ∃ t, exec (.ldiLe .b1 8) nine = .next t ∧ t.err = 0 := ⟨_, rfl, rfl⟩

/-- Two states that differ in a byte outside the window and in one beyond TLEN, and an operation that reads the window. -/
theorem witness_HiddenBytesNeverShow :
    let s := (framed [1, 2]).issueNext 0x00000008
    let s' : State := { s with fb := s.fb ++ [(2, 7)], tb := [(0, 9)] }
    SameView s s' ∧ s ≠ s' ∧ ∃ t, step s = .next t :=
  ⟨by constructor <;> decide, by decide, _, rfl⟩

/-- The invariant holds of a state with bytes in both buffers and a recorded fault. -/
theorem witness_InvariantIsKept :
    let s : State := { (nine.presentText [0x41]).issueNext 0x15 with err := 7, eflags := 0xCE }
    s.Inv ∧ ∃ t, step s = .next t :=
  ⟨by constructor <;> decide, _, rfl⟩
theorem witness_ResetInputRestarts : ({ nine with inputs := [.reset] } : State).inputs = .reset :: [] := by decide
theorem witness_AfterReset : (∃ i : Instr, i = .avaDec ∨ i = .cavDec ∨ i = .frdDec) ∧
    ∃ i : Instr, i = .ldiLe .b1 0 ∨ i = .ldiBe .b1 0 ∨ i = .stiLe .b1 0 ∨ i = .stiBe .b1 0 :=
  ⟨⟨_, .inl rfl⟩, _, .inl rfl⟩
theorem witness_FramePresented : 0x11F < min (List.replicate 0x121 (0 : Byte)).length 0x120 ∧
    min (List.replicate 0x121 (0 : Byte)).length 0x120 ≤ 0x120 := by
  rw [List.length_replicate]; decide
theorem witness_TextPresented : 31 < min (List.replicate 33 (0 : Byte)).length 32 ∧
    min (List.replicate 33 (0 : Byte)).length 32 ≤ 32 := by
  rw [List.length_replicate]; decide
theorem witness_MovxIsGetThenSet : ({ nine with inputs := [.movx 0 2] } : State).inputs = .movx 0 2 :: [] := by decide

end Sys2Proof.Tests
end

/-! # What a step can do, and what every step keeps (10_state.md) -/

section
/-! SUPPORT. The ways a step, an issued word and an operation can end, each said once. -/

namespace Sys2Proof.Machine

/-! ## A step -/

theorem step_of_no_input {s : State} (h : s.inputs = []) : step s = .next s := by
  simp only [step, runNext, h]

theorem step_of_input {s : State} {a : Input} {rest : List Input} (h : s.inputs = a :: rest) :
    step s = runInput a { s with inputs := rest } := by
  simp only [step, runNext, h]

/-! ## An operation and an issued word -/

/-- An operation that answers `t` either succeeded with `u` and cleared `ERR`, or took an exception on its start. -/
theorem exec_cases {i : Instr} {s t : State} (h : exec i s = .next t) :
    (∃ u, operation i s = .ok u ∧ t = u.succeed) ∨ (∃ e, operation i s = .error e ∧ t = s.raise e) := by
  rw [exec_eq_complete] at h
  rcases complete_cases s (operation i s) with ⟨u, hu, hc⟩ | ⟨e, he, hc⟩
  · exact .inl ⟨u, hu, Host.Outcome.next.inj (h.symm.trans hc)⟩
  · exact .inr ⟨e, he, Host.Outcome.next.inj (h.symm.trans hc)⟩

/-- An issued word performs an operation that succeeds, or an exception is taken (IllegalOp if it decodes to nothing). -/
theorem issue_cases {cmd : Command} {s t : State} (h : issue cmd s = .next t) :
    (∃ i u, operation i s = .ok u ∧ t = u.succeed) ∨ (∃ e, t = s.raise e) := by
  unfold issue at h
  split at h
  · next i _ =>
    rcases exec_cases h with ⟨u, hu, ht⟩ | ⟨e, _, ht⟩
    · exact .inl ⟨i, u, hu, ht⟩
    · exact .inr ⟨e, ht⟩
  · exact .inr ⟨.illegalOp, (Host.Outcome.next.inj h).symm⟩

/-! ## What a successful operation writes -/

/-- What a successful operation can leave of the state it starts from, by the pieces it writes: a result in `x[2]`; a
result with its CRC; the record with its CRC; bytes stored in `FB`; a whole frame encoded; the record; a string in `TB`. -/
inductive Effect (s : State) (i : Instr) : State → Prop
  | result (v : XWord) (hi : i.row.mnemonic ∈ ["BF.EXT", "BF.PACK", "LDI.LE", "LDI.BE", "FLD.GET", "CHK.DGT"]) :
    Effect s i { s with x2 := v }
  | remainder (c : BitVec 16) (v : XWord) (hi : i.row.mnemonic ∈ ["CRC16", "CRC.VFY"]) :
    Effect s i { s with crc := c, x2 := v }
  | fixup (c : BitVec 16) (r : RecFile) (hi : i.row.mnemonic ∈ ["CRC.FIX", "REC.ZERO"]) :
    Effect s i { s with crc := c, record := r }
  | store (a : Nat) (bs : List Byte) (inside : a + bs.length ≤ fbSize) (hi : i.row.mnemonic ∈ ["STI.LE", "STI.BE"]) :
    Effect s i { s with fb := s.fb.writeList a bs }
  | frame (bs : List Byte) (n : BitVec 16) (inside : bs.length ≤ fbSize)
      (hi : i.row.mnemonic ∈ ["AVA.ENC", "CAV.ENC", "FRD.ENC"]) :
    Effect s i { s with fb := s.fb.writeList 0 bs, flen := n }
  | record (r : RecFile) (hi : i.row.mnemonic ∈ ["AVA.DEC", "CAV.DEC", "FRD.DEC", "FLD.SET", "TXT.ENC"]) :
    Effect s i { s with record := r }
  | text (bs : List Byte) (n : BitVec 8) (inside : bs.length ≤ tbSize) (hi : i.row.mnemonic ∈ ["TXT.DEC"]) :
    Effect s i { s with tb := s.tb.writeList 0 bs, tlen := n }

theorem capacity_le_tbSize (t : TextField) : t.capacity ≤ tbSize := by cases t <;> decide

/-- The string of a text field is no longer than the field (43_text.md R140). -/
theorem textDec_units_length_le (c : RecFile) (t : TextField) : (textDec (c.units t)).length ≤ t.capacity := by
  rw [textDec, List.length_map, ← c.units_length t]
  exact (List.takeWhile_sublist _).length_le

theorem effect_of_opStore {order : ByteOrder} {k off : Nat} {i : Instr} {s u : State}
    (h : opStore order k off s = .ok u) (hi : i.row.mnemonic ∈ ["STI.LE", "STI.BE"]) : Effect s i u := by
  obtain ⟨hw, _, rfl⟩ := opStore_ok h
  refine .store off _ ?_ hi
  rw [encInt_length]
  exact hw.trans (Nat.min_le_right _ _)

theorem effect_of_opEncode {size : Nat} {bytes : RecFile → List Byte} {i : Instr} {s u : State}
    (h : opEncode size bytes s = .ok u) (hb : ∀ c, (bytes c).length = size) (hsize : size ≤ fbSize)
    (hi : i.row.mnemonic ∈ ["AVA.ENC", "CAV.ENC", "FRD.ENC"]) : Effect s i u := by
  obtain rfl := opEncode_ok h
  exact .frame _ _ ((hb s.record).trans_le hsize) hi

/-- A successful operation writes what its effect says and nothing else. -/
theorem operation_effect {i : Instr} {s u : State} (h : operation i s = .ok u) : Effect s i u := by
  cases i with
  | bfExt W o n => obtain ⟨_, _, rfl⟩ := opExt_ok h; exact .result _ (by simp [Instr.row])
  | bfPack W o n => obtain ⟨_, _, _, _, rfl⟩ := opPack_ok h; exact .result _ (by simp [Instr.row])
  | ldiLe k off => obtain ⟨_, rfl⟩ := opLoad_ok h; exact .result _ (by simp [Instr.row])
  | ldiBe k off => obtain ⟨_, rfl⟩ := opLoad_ok h; exact .result _ (by simp [Instr.row])
  | stiLe k off => exact effect_of_opStore h (by simp [Instr.row])
  | stiBe k off => exact effect_of_opStore h (by simp [Instr.row])
  | avaDec => obtain ⟨_, rfl⟩ := opDecode_ok h; exact .record _ (by simp [Instr.row])
  | avaEnc => exact effect_of_opEncode (bytes := fun c => packAvatar c.a) h (fun c => packAvatar_length c.a) (by decide) (by simp [Instr.row])
  | cavDec => obtain ⟨_, rfl⟩ := opDecode_ok (load := fun c bs => c.loadChecksummed bs 0) h; exact .record _ (by simp [Instr.row])
  | cavEnc => exact effect_of_opEncode h packChecksummed_length (by decide) (by simp [Instr.row])
  | frdDec => obtain ⟨_, rfl⟩ := opDecode_ok h; exact .record _ (by simp [Instr.row])
  | frdEnc => exact effect_of_opEncode h packFriend_length (by decide) (by simp [Instr.row])
  | fldGet f idx => obtain ⟨_, rfl⟩ := opGet_ok h; exact .result _ (by simp [Instr.row])
  | fldSet f idx => obtain ⟨_, _, _, rfl⟩ := opSet_ok h; exact .record _ (by simp [Instr.row])
  | recZero => obtain rfl := opZero_ok h; exact .fixup _ _ (by simp [Instr.row])
  | txtDec t =>
    obtain rfl := opTextDec_ok h
    exact .text _ _ ((textDec_units_length_le _ t).trans (capacity_le_tbSize t)) (by simp [Instr.row])
  | txtEnc t => obtain ⟨_, rfl⟩ := opTextEnc_ok h; exact .record _ (by simp [Instr.row])
  | crc16 off len => obtain ⟨_, rfl⟩ := opCrc16_ok h; exact .remainder _ _ (by simp [Instr.row])
  | crcVfy => obtain rfl := opVerify_ok h; exact .remainder _ _ (by simp [Instr.row])
  | crcFix => obtain rfl := opFix_ok h; exact .fixup _ _ (by simp [Instr.row])
  | chkDgt => obtain ⟨_, _, rfl⟩ := opCheckDigit_ok h; exact .result _ (by simp [Instr.row])

/-! ## Updates that set no status and stay inside the buffers -/

/-- A buffer of `size` addresses is left as it is, or bytes are written inside it. -/
inductive Memory.WrittenInside (size : Nat) (m : Memory) : Memory → Prop
  | same : WrittenInside size m m
  | write (a : Nat) (bs : List Byte) (h : a + bs.length ≤ size) : WrittenInside size m (m.writeList a bs)

theorem Memory.WrittenInside.wf {size : Nat} {m n : Memory} (h : m.WrittenInside size n) (hm : m.wf = true) :
    n.wf = true := by
  cases h with
  | same => exact hm
  | write a bs _ => exact Memory.wf_writeList a bs hm

theorem Memory.WrittenInside.inside {size : Nat} {m n : Memory} (h : m.WrittenInside size n)
    (hm : m.inside size = true) : n.inside size = true := by
  cases h with
  | same => exact hm
  | write a bs hb => exact Memory.inside_writeList hm hb

/-- The status registers are kept, and both buffers are written inside their addresses only. -/
structure QuietUpdate (s t : State) : Prop where
  err : t.err = s.err := by rfl
  eflags : t.eflags = s.eflags := by rfl
  fb : s.fb.WrittenInside fbSize t.fb := by exact .same
  tb : s.tb.WrittenInside tbSize t.tb := by exact .same

/-- An operation sets its status only when it ends (60_exceptions.md R176), and its writes stay inside the buffers
(20_memory.md R52). -/
theorem Effect.quiet {i : Instr} {s u : State} (h : Effect s i u) : QuietUpdate s u := by
  cases h with
  | result | remainder | fixup | record => exact {}
  | store a bs inside => exact { fb := .write a bs inside }
  | frame bs n inside => exact { fb := .write 0 bs (by omega) }
  | text bs n inside => exact { tb := .write 0 bs (by omega) }

theorem State.setX_quiet (s : State) (i : Fin 3) (v : XWord) : QuietUpdate s (s.setX i v) where
  err := s.setX_err i v
  eflags := s.setX_eflags i v
  fb := by rw [State.setX_fb]; exact .same
  tb := by rw [State.setX_tb]; exact .same

theorem State.reveal_quiet (s : State) (r : Reply) : QuietUpdate s (s.reveal r) := {}

/-- An input is a reset, an issued word, or a host action that touches no status (20_memory.md R61 to R65). -/
theorem runInput_cases {a : Input} {s t : State} (h : runInput a s = .next t) :
    (a = .reset ∧ t = s.resetBlock) ∨ (∃ cmd, a = .issue cmd ∧ issue cmd s = .next t) ∨ QuietUpdate s t := by
  cases a with
  | reset => exact .inl ⟨rfl, (Host.Outcome.next.inj h).symm⟩
  | issue cmd => exact .inr (.inl ⟨cmd, rfl, h⟩)
  | frame bs =>
    obtain rfl := Host.Outcome.next.inj h
    exact .inr (.inr { fb := .write 0 _ (by simp) })
  | text bs =>
    obtain rfl := Host.Outcome.next.inj h
    exact .inr (.inr { tb := .write 0 _ (by simp) })
  | setx i v => obtain rfl := Host.Outcome.next.inj h; exact .inr (.inr (s.setX_quiet i v))
  | movx i j =>
    obtain rfl := Host.Outcome.next.inj h
    -- showing `x[j]` first keeps all that the update of `x[i]` is compared on
    have hq := (s.reveal (.xreg j (s.getX j))).setX_quiet i (s.getX j)
    exact .inr (.inr ⟨hq.err, hq.eflags, hq.fb, hq.tb⟩)
  | read | getx | rtext | status => obtain rfl := Host.Outcome.next.inj h; exact .inr (.inr (s.reveal_quiet _))

/-! ## The sticky bits -/

/-- Setting a sticky bit sets that bit and keeps the others (10_state.md R25). -/
theorem getLsbD_setSticky (f : BitVec 8) (c : BitVec 3) (k : Nat) :
    (setSticky f c).getLsbD k = (f.getLsbD k || decide (c.toNat = k)) := by
  have hc : c.toNat < 8 := c.isLt
  rw [setSticky, BitVec.getLsbD_or, ← BitVec.twoPow_eq, BitVec.getLsbD_twoPow, decide_eq_true hc, Bool.true_and]

/-- An exception taken is recorded (10_state.md R25). -/
theorem State.raise_recorded (s : State) (e : Exc) : (s.raise e).eflags.getLsbD (s.raise e).err.toNat = true := by
  rw [State.raise_eflags, State.raise_err, getLsbD_setSticky, decide_eq_true rfl, Bool.or_true]

/-- The block raises no exception with the status code 0, 4 or 5 (60_exceptions.md R171, R174). -/
theorem Exc.code_produced (e : Exc) : e.code.toNat ≠ 0 ∧ e.code.toNat ≠ 4 ∧ e.code.toNat ≠ 5 := by
  cases e <;> decide

/-- No exception touches bits 0, 4 and 5 of `EFLAGS`. -/
theorem setSticky_unused (f : BitVec 8) (e : Exc) : setSticky f e.code &&& 0x31 = f &&& 0x31 := by
  have hbit : (1#8 <<< e.code.toNat) &&& 0x31 = 0#8 := by cases e <;> decide
  rw [setSticky, BitVec.and_comm, BitVec.and_or_distrib_left, BitVec.and_comm, BitVec.and_comm 0x31 (_ <<< _), hbit,
    BitVec.or_zero]

/-- The three things an input can do to `EFLAGS`. -/
theorem runInput_eflags {a : Input} {s t : State} (h : runInput a s = .next t) :
    (a = .reset ∧ t.eflags = 0) ∨ t.eflags = s.eflags ∨ ∃ e : Exc, t.eflags = setSticky s.eflags e.code := by
  rcases runInput_cases h with ⟨ha, rfl⟩ | ⟨cmd, _, hi⟩ | hq
  · exact .inl ⟨ha, rfl⟩
  · rcases issue_cases hi with ⟨i, u, hu, rfl⟩ | ⟨e, rfl⟩
    · exact .inr (.inl (operation_effect hu).quiet.eflags)
    · exact .inr (.inr ⟨e, rfl⟩)
  · exact .inr (.inl hq.eflags)

/-! ## The invariant -/

theorem State.Inv.of_quiet {s t : State} (h : s.Inv) (hq : QuietUpdate s t) : t.Inv where
  fb_wf := hq.fb.wf h.fb_wf
  fb_inside := hq.fb.inside h.fb_inside
  tb_wf := hq.tb.wf h.tb_wf
  tb_inside := hq.tb.inside h.tb_inside
  eflags_unused := hq.eflags ▸ h.eflags_unused
  err_produced := hq.err ▸ h.err_produced
  err_recorded := by rw [hq.err, hq.eflags]; exact h.err_recorded

theorem State.Inv.succeed {s : State} (h : s.Inv) : s.succeed.Inv where
  fb_wf := h.fb_wf
  fb_inside := h.fb_inside
  tb_wf := h.tb_wf
  tb_inside := h.tb_inside
  eflags_unused := h.eflags_unused
  err_produced := by rw [State.succeed_err]; decide
  err_recorded := fun hne => absurd rfl hne

theorem State.Inv.raise {s : State} (h : s.Inv) (e : Exc) : (s.raise e).Inv where
  fb_wf := h.fb_wf
  fb_inside := h.fb_inside
  tb_wf := h.tb_wf
  tb_inside := h.tb_inside
  eflags_unused := (setSticky_unused _ e).trans h.eflags_unused
  err_produced := by rw [State.raise_err]; cases e <;> decide
  err_recorded := fun _ => s.raise_recorded e

/-- The state after reset meets the invariant (10_state.md R41). -/
theorem State.reset_inv : State.reset.Inv where
  fb_wf := rfl
  fb_inside := rfl
  tb_wf := rfl
  tb_inside := rfl
  eflags_unused := rfl
  err_produced := by decide
  err_recorded := fun hne => absurd rfl hne

theorem State.resetBlock_inv (s : State) : s.resetBlock.Inv := State.reset_inv.of_quiet {}

theorem issue_keeps_inv {cmd : Command} {s t : State} (hs : s.Inv) (h : issue cmd s = .next t) : t.Inv := by
  rcases issue_cases h with ⟨i, u, hu, rfl⟩ | ⟨e, rfl⟩
  · exact (hs.of_quiet (operation_effect hu).quiet).succeed
  · exact hs.raise e

theorem runInput_keeps_inv {a : Input} {s t : State} (hs : s.Inv) (h : runInput a s = .next t) : t.Inv := by
  rcases runInput_cases h with ⟨_, rfl⟩ | ⟨cmd, _, hi⟩ | hq
  · exact s.resetBlock_inv
  · exact issue_keeps_inv hs hi
  · exact hs.of_quiet hq

theorem step_keeps_inv {s t : State} (hs : s.Inv) (h : step s = .next t) : t.Inv := by
  cases hin : s.inputs with
  | nil =>
    rw [step_of_no_input hin] at h
    exact Host.Outcome.next.inj h ▸ hs
  | cons a rest =>
    rw [step_of_input hin] at h
    exact runInput_keeps_inv (hs.of_quiet {}) h

/-! ## The obligations that rest on these facts alone -/

/-- Settles O52: each of the three ways a step can end keeps the invariant. -/
theorem invariantIsKept : Obligations.InvariantIsKept :=
  fun _ _ hs h => step_keeps_inv hs h

/-- Settles O53. -/
theorem invariantAtReset : Obligations.InvariantAtReset := State.reset_inv

/-- Settles O7. -/
theorem idleBlockWaits : Obligations.IdleBlockWaits := fun _ h => step_of_no_input h

/-- Settles O45, from the ways an issued word can end and the three things an input can do to `EFLAGS`. -/
theorem eflagsIsSticky : Obligations.EflagsIsSticky := by
  refine ⟨?recorded, ?kept, ?unused, ?hidden, fun s => ⟨_, rfl, rfl⟩, rfl⟩
  case recorded =>
    intro s t cmd h
    rcases issue_cases h with ⟨i, u, hu, rfl⟩ | ⟨e, rfl⟩
    · exact ⟨fun hne => absurd rfl hne, fun _ => (operation_effect hu).quiet.eflags⟩
    · exact ⟨fun _ => s.raise_recorded e, fun h0 => absurd h0 e.code_ne_ok⟩
  case kept =>
    intro s t a ha h k hk
    rcases runInput_eflags h with ⟨hr, _⟩ | heq | ⟨e, heq⟩
    · exact absurd hr ha
    · rw [heq, hk]
    · rw [heq, getLsbD_setSticky, hk, Bool.true_or]
  case unused =>
    intro s t a h k hk hclear
    rcases runInput_eflags h with ⟨_, heq⟩ | heq | ⟨e, heq⟩
    · rw [heq]; exact BitVec.getLsbD_zero
    · rw [heq, hclear]
    · have hcode : e.code.toNat ≠ k := by have := e.code_produced; omega
      rw [heq, getLsbD_setSticky, hclear, decide_eq_false hcode, Bool.or_false]
  case hidden =>
    intro s
    rw [readEflags, BitVec.getLsbD_and, show (0xFE : BitVec 8).getLsbD 0 = false from rfl, Bool.and_false]

/-- Settles O48: an exception writes none of these pieces, a success those of its effect. -/
theorem onlyTheListedOperationsWrite : Obligations.OnlyTheListedOperationsWrite := by
  intro i s t h
  rcases exec_cases h with ⟨u, hu, rfl⟩ | ⟨e, _, rfl⟩
  · cases operation_effect hu with
    | result _ hi | remainder _ _ hi | fixup _ _ hi | store _ _ _ hi | frame _ _ _ hi | record _ hi | text _ _ _ hi =>
      simp at hi ⊢
      tauto
  · simp

end Sys2Proof.Machine
end

section
/-! SUPPORT. The stored checksum under every write of the record, the record of zeros, and the state after reset. -/

namespace Sys2Proof.Machine

/-! ## The stored checksum -/

theorem RecFile.write_cChecksum (c : RecFile) {r : Reg} (i : Nat) (v : XWord) (h : r ≠ .cChecksum) :
    (c.write r i v).cChecksum = c.cChecksum := by
  cases r with
  | cChecksum => exact absurd rfl h
  | _ => rfl

@[simp] theorem RecFile.setUnits_cChecksum (c : RecFile) (t : TextField) (u : Nat → CodeUnit) :
    (c.setUnits t u).cChecksum = c.cChecksum := by
  cases t <;> rfl

/-- The checksum is no bit-field group, so no sub-field lies in it (30_encoding.md R74). -/
theorem subField_group_ne_cChecksum (f : SubField) : f.row.group ≠ .cChecksum := by
  intro h
  obtain ⟨_, w, b, hk⟩ := subFields_width f
  rw [h] at hk
  cases hk

/-- Writing any field but `C.checksum` itself keeps the stored checksum (44_checksum.md R157). -/
theorem setField_cChecksum {c c' : RecFile} {f : FieldId} {idx : Nat} {v : XWord} (h : c.setField f idx v = .ok c')
    (hf : f ≠ .reg .cChecksum) : c'.cChecksum = c.cChecksum := by
  cases f with
  | reg r =>
    simp only [RecFile.setField] at h
    split at h
    · cases h
    · obtain rfl := Except.ok.inj h
      exact c.write_cChecksum idx v fun hr => hf (hr ▸ rfl)
  | sub f =>
    simp only [RecFile.setField] at h
    split at h
    · cases h
    · obtain rfl := Except.ok.inj h
      exact c.write_cChecksum 0 _ (subField_group_ne_cChecksum f)

/-- An operation that changes the record is one of the seven that write it (42_record.md R123 to R131). -/
theorem Effect.record_writer {i : Instr} {s u : State} (h : Effect s i u) (hne : u.record ≠ s.record) :
    i.row.mnemonic ∈ ["AVA.DEC", "CAV.DEC", "FRD.DEC", "FLD.SET", "TXT.ENC", "CRC.FIX", "REC.ZERO"] := by
  cases h with
  | record _ hi | fixup _ _ hi => simp at hi ⊢; tauto
  | result | remainder | store | frame | text => exact absurd rfl hne

/-- A successful operation that changes `C.checksum` is one of the five writers of 44_checksum.md R157. -/
theorem operation_checksum_writer {i : Instr} {s u : State} (h : operation i s = .ok u)
    (hne : u.record.cChecksum ≠ s.record.cChecksum) :
    i = .cavDec ∨ i = .frdDec ∨ (∃ idx, i = .fldSet (.reg .cChecksum) idx) ∨ i = .crcFix ∨ i = .recZero := by
  have hwriter := (operation_effect h).record_writer fun heq => hne (congrArg RecFile.cChecksum heq)
  cases i with
  | cavDec | frdDec | crcFix | recZero => simp
  | avaDec =>
    obtain ⟨_, rfl⟩ := opDecode_ok h
    exact absurd rfl hne
  | txtEnc t =>
    obtain ⟨_, rfl⟩ := opTextEnc_ok h
    exact absurd (RecFile.setUnits_cChecksum ..) hne
  | fldSet f idx =>
    obtain ⟨_, c, hc, rfl⟩ := opSet_ok h
    have hf : f = .reg .cChecksum := by
      by_contra hf
      exact hne (setField_cChecksum hc hf)
    exact .inr (.inr (.inl ⟨idx, hf ▸ rfl⟩))
  | _ => simp [Instr.row] at hwriter

/-- Settles O49: an exception keeps the record, and a success that changes the checksum is one of the five writers. -/
theorem checksumIsNeverFixedSilently : Obligations.ChecksumIsNeverFixedSilently := by
  intro i s t h hne
  rcases exec_cases h with ⟨u, hu, rfl⟩ | ⟨e, _, rfl⟩
  · exact operation_checksum_writer hu hne
  · exact absurd rfl hne

/-! ## The record of zeros -/

/-- Every element of every register of `RecFile.zero` is 0, and an index outside an array reads 0 (log 6). -/
theorem RecFile.read_zero (r : Reg) (i : Nat) : RecFile.zero.read r i = 0 := by
  have harray (w n : Nat) : (((Vector.replicate n (0 : BitVec w))[i]?.getD 0).setWidth 64 : XWord) = 0 := by
    by_cases hi : i < n <;> simp [hi]
  cases r with
  | aMac | fPad08 | fOpaque | fPad50 | fPad5D | fPadB8 | fPad11B => exact harray 8 _
  | aName | aAuthorName | fComment | fHexId | fSerial | fDisplayName => exact harray 16 _
  | _ => rfl

/-- The CRC of zero bytes is 0 (44_checksum.md R160 (d)). -/
theorem crc16_replicate_zero (n : Nat) : crc16 (List.replicate n 0) = 0 := by
  have hbyte : crcByte 0 0 = 0 := by decide
  induction n with
  | zero => rfl
  | succ n ih => rw [List.replicate_succ, crc16, List.foldl_cons, hbyte]; exact ih

/-- The record of zeros encodes to zero bytes, so its checksum is 0 (42_record.md R131). -/
theorem RecFile.cavCrc_zero : RecFile.zero.cavCrc = 0 := by
  have hbytes : (packChecksummed RecFile.zero).take crcRange = List.replicate crcRange 0 := by decide +kernel
  rw [RecFile.cavCrc, hbytes, crc16_replicate_zero]

theorem RecFile.verify_zero : RecFile.zero.verify = true := by
  rw [RecFile.verify, RecFile.cavCrc_zero]; rfl

/-- CRC.VFY of a record whose stored checksum is the computed one returns 1 (44_checksum.md R155). -/
theorem exec_crcVfy_of_verify {s : State} (h : s.record.verify = true) :
    exec .crcVfy s = .next { s with crc := s.record.cavCrc, x2 := 1, err := okCode } := by
  simp only [exec_eq_complete, operation, opVerify, if_pos h, complete_ok, State.succeed]

/-- Settles O54. -/
theorem resetState : Obligations.ResetState :=
  ⟨rfl, rfl, rfl, rfl, rfl, rfl, rfl, rfl, Memory.read_nil, Memory.read_nil, RecFile.read_zero,
    _, exec_crcVfy_of_verify (s := .reset) RecFile.verify_zero, rfl⟩

end Sys2Proof.Machine
end

section
/-! SUPPORT. Two runs of one operation, from states that differ only in what no operation reads (10_state.md R49). -/

namespace Sys2Proof.Machine

/-! ## Results related to one another -/

/-- Two results of an operation agree: both raise the same exception, or both succeed and the states reached are
related. -/
inductive ResultsAgree (R : State → State → Prop) : Except Exc State → Except Exc State → Prop
  | ok {u u' : State} (h : R u u') : ResultsAgree R (.ok u) (.ok u')
  | error (e : Exc) : ResultsAgree R (.error e) (.error e)

/-- The same check before results that agree. -/
theorem ResultsAgree.check {R : State → State → Prop} {r r' : Except Exc State} (c : Bool) (e : Exc)
    (h : ResultsAgree R r r') : ResultsAgree R (check c e r) (check c e r') := by
  cases c
  · exact h
  · exact .error e

/-! ## Status and old results -/

/-- The state with other values of the four registers that no operation reads. -/
def State.withOldResults (s : State) (e : BitVec 3) (f : BitVec 8) (c : BitVec 16) (x : XWord) : State :=
  { s with err := e, eflags := f, crc := c, x2 := x }

/-- `u` reached from `s` and `u'` from `s'` are the same, but that each keeps its own `EFLAGS`, and its own `x[2]` or
`CRC` where the operation writes none. -/
structure SameResults (s s' u u' : State) : Prop where
  x2 : u'.x2 = u.x2 ∨ u'.x2 = s'.x2 ∧ u.x2 = s.x2
  crc : u'.crc = u.crc ∨ u'.crc = s'.crc ∧ u.crc = s.crc
  record : u'.record = u.record := by rfl
  fb : u'.fb = u.fb := by rfl
  tb : u'.tb = u.tb := by rfl
  flen : u'.flen = u.flen := by rfl
  tlen : u'.tlen = u.tlen := by rfl
  eflags : u.eflags = s.eflags := by rfl
  eflags' : u'.eflags = s'.eflags := by rfl

section
variable (s : State) (e : BitVec 3) (f : BitVec 8) (c : BitVec 16) (x : XWord)

/-- The relation that two runs from `s` and from `s` with other old results meet. -/
abbrev AgreeFrom (op : State → Except Exc State) : Prop :=
  ResultsAgree (SameResults s (s.withOldResults e f c x)) (op s) (op (s.withOldResults e f c x))

theorem opExt_agrees (W o n : Nat) : AgreeFrom s e f c x (opExt W o n) := by
  by_cases hc : InField W o n
  · simp only [AgreeFrom, opExt, dif_pos hc]
    exact .check _ _ (.ok { x2 := .inl rfl, crc := .inr ⟨rfl, rfl⟩ })
  · simp only [AgreeFrom, opExt, dif_neg hc]
    exact .error _

theorem opPack_agrees (W o n : Nat) : AgreeFrom s e f c x (opPack W o n) := by
  by_cases hc : InField W o n
  · simp only [AgreeFrom, opPack, dif_pos hc, State.withOldResults]
    refine .check _ _ ?_
    split
    · exact .error _
    · exact .ok { x2 := .inl rfl, crc := .inr ⟨rfl, rfl⟩ }
  · simp only [AgreeFrom, opPack, dif_neg hc]
    exact .error _

theorem opLoad_agrees (order : ByteOrder) (k off : Nat) : AgreeFrom s e f c x (opLoad order k off) :=
  .check _ _ (.ok { x2 := .inl rfl, crc := .inr ⟨rfl, rfl⟩ })

theorem opStore_agrees (order : ByteOrder) (k off : Nat) : AgreeFrom s e f c x (opStore order k off) :=
  .check _ _ (.check _ _ (.ok { x2 := .inr ⟨rfl, rfl⟩, crc := .inr ⟨rfl, rfl⟩ }))

theorem opDecode_agrees (size : Nat) (load : RecFile → List Byte → RecFile) :
    AgreeFrom s e f c x (opDecode size load) :=
  .check _ _ (.ok { x2 := .inr ⟨rfl, rfl⟩, crc := .inr ⟨rfl, rfl⟩ })

theorem opEncode_agrees (size : Nat) (bytes : RecFile → List Byte) : AgreeFrom s e f c x (opEncode size bytes) :=
  .ok { x2 := .inr ⟨rfl, rfl⟩, crc := .inr ⟨rfl, rfl⟩ }

theorem opGet_agrees (g : FieldId) (idx : Nat) : AgreeFrom s e f c x (opGet g idx) :=
  .check _ _ (.ok { x2 := .inl rfl, crc := .inr ⟨rfl, rfl⟩ })

theorem opSet_agrees (g : FieldId) (idx : Nat) : AgreeFrom s e f c x (opSet g idx) := by
  simp only [AgreeFrom, opSet, State.withOldResults]
  refine .check _ _ ?_
  split
  · exact .error _
  · exact .ok { x2 := .inr ⟨rfl, rfl⟩, crc := .inr ⟨rfl, rfl⟩ }

theorem opTextDec_agrees (t : TextField) : AgreeFrom s e f c x (opTextDec t) :=
  .ok { x2 := .inr ⟨rfl, rfl⟩, crc := .inr ⟨rfl, rfl⟩ }

theorem opTextEnc_agrees (t : TextField) : AgreeFrom s e f c x (opTextEnc t) :=
  .check _ _ (.ok { x2 := .inr ⟨rfl, rfl⟩, crc := .inr ⟨rfl, rfl⟩ })

theorem opCrc16_agrees (off len : Nat) : AgreeFrom s e f c x (opCrc16 off len) :=
  .check _ _ (.ok { x2 := .inl rfl, crc := .inl rfl })

theorem opVerify_agrees : AgreeFrom s e f c x opVerify := .ok { x2 := .inl rfl, crc := .inl rfl }

theorem opFix_agrees : AgreeFrom s e f c x opFix := .ok { x2 := .inr ⟨rfl, rfl⟩, crc := .inl rfl }

theorem opZero_agrees : AgreeFrom s e f c x opZero := .ok { x2 := .inr ⟨rfl, rfl⟩, crc := .inl rfl }

theorem opCheckDigit_agrees : AgreeFrom s e f c x opCheckDigit :=
  .check _ _ (.check _ _ (.ok { x2 := .inl rfl, crc := .inr ⟨rfl, rfl⟩ }))

/-- No operation reads `ERR`, `EFLAGS`, `CRC` or `x[2]` (10_state.md R49). -/
theorem operation_agrees (i : Instr) : AgreeFrom s e f c x (operation i) := by
  cases i with
  | bfExt => exact opExt_agrees ..
  | bfPack => exact opPack_agrees ..
  | ldiLe | ldiBe => exact opLoad_agrees ..
  | stiLe | stiBe => exact opStore_agrees ..
  | avaDec | frdDec => exact opDecode_agrees ..
  | cavDec => exact opDecode_agrees (load := fun c bs => c.loadChecksummed bs 0) ..
  | avaEnc => exact opEncode_agrees (bytes := fun c => packAvatar c.a) ..
  | cavEnc | frdEnc => exact opEncode_agrees ..
  | fldGet => exact opGet_agrees ..
  | fldSet => exact opSet_agrees ..
  | recZero => exact opZero_agrees ..
  | txtDec => exact opTextDec_agrees ..
  | txtEnc => exact opTextEnc_agrees ..
  | crc16 => exact opCrc16_agrees ..
  | crcVfy => exact opVerify_agrees ..
  | crcFix => exact opFix_agrees ..
  | chkDgt => exact opCheckDigit_agrees ..

end

/-- Settles O50: both runs raise the same exception on their starts, or both succeed with the same results. -/
theorem resultsIgnoreStatusAndOldResults : Obligations.ResultsIgnoreStatusAndOldResults := by
  intro i s t e f c x h
  rw [exec_eq_complete] at h
  change ∃ t', exec i (s.withOldResults e f c x) = .next t' ∧ _
  rw [exec_eq_complete]
  have hagree := operation_agrees s e f c x i
  unfold AgreeFrom at hagree
  generalize operation i s = r at h hagree
  generalize operation i (s.withOldResults e f c x) = r' at hagree ⊢
  cases hagree with
  | ok hR =>
    obtain rfl := Host.Outcome.next.inj h
    exact ⟨_, rfl, rfl, hR.record, hR.fb, hR.tb, hR.flen, hR.tlen, hR.x2, hR.crc, hR.eflags'⟩
  | error exc =>
    obtain rfl := Host.Outcome.next.inj h
    exact ⟨_, rfl, rfl, rfl, rfl, rfl, rfl, rfl, .inr ⟨rfl, rfl⟩, .inr ⟨rfl, rfl⟩, (if_neg exc.code_ne_ok).symm⟩

end Sys2Proof.Machine
end

/-! # The buffers, the byte orders and the host port (20_memory.md) -/

section
/-! SUPPORT. What the reads and writes of a buffer make of two memories that agree on some addresses. -/

namespace Sys2Proof.Machine

theorem Memory.readList_zero (m : Memory) (n : Nat) : m.readList 0 n = (List.range n).map m.read := by
  simp only [Memory.readList, Nat.zero_add]

/-- Memories that agree up to the end of a range read the same there. -/
theorem Memory.readList_congr {m m' : Memory} {a n : Nat} (h : ∀ b < a + n, m.read b = m'.read b) :
    m.readList a n = m'.readList a n :=
  List.map_congr_left fun i hi => h (a + i) (Nat.add_lt_add_left (List.mem_range.mp hi) a)

/-- The same write keeps the agreement of two memories at an address. -/
theorem Memory.read_writeList_congr {m m' : Memory} {b : Nat} (a : Nat) (bs : List Byte)
    (h : m.read b = m'.read b) : (m.writeList a bs).read b = (m'.writeList a bs).read b := by
  rw [Memory.read_writeList, Memory.read_writeList, h]

theorem Memory.read_writeList_zero_of_lt (m : Memory) {bs : List Byte} {a : Nat} (h : a < bs.length) :
    (m.writeList 0 bs).read a = bs.getD a 0 := by
  rw [Memory.read_writeList, if_pos ⟨Nat.zero_le a, by omega⟩, Nat.sub_zero]

/-- Where a list is written from address 0, nothing of the old contents is left to read. -/
theorem Memory.read_writeList_zero_eq (m m' : Memory) {bs : List Byte} {a : Nat} (h : a < bs.length) :
    (m.writeList 0 bs).read a = (m'.writeList 0 bs).read a := by
  rw [Memory.read_writeList_zero_of_lt m h, Memory.read_writeList_zero_of_lt m' h]

/-- A string presented to a buffer of `size` bytes stands there from address 0 (20_memory.md R61, R64). -/
theorem Memory.read_presented (m : Memory) (bs : List Byte) (size : Nat) {i : Nat} (h : i < min bs.length size) :
    (m.writeList 0 (bs.take size)).read i = bs.getD i 0 := by
  have hlt : i < (bs.take size).length := by rw [List.length_take]; omega
  rw [Memory.read_writeList_zero_of_lt m hlt, List.getD_eq_getElem?_getD, List.getD_eq_getElem?_getD,
    List.getElem?_take_of_lt (by omega)]

/-- The bytes of a buffer beyond the string presented are kept (20_memory.md R61, R64). -/
theorem Memory.read_beyond_presented (m : Memory) (bs : List Byte) (size : Nat) {a : Nat}
    (h : min bs.length size ≤ a) : (m.writeList 0 (bs.take size)).read a = m.read a :=
  Memory.read_writeList_of_ge (by rw [List.length_take]; omega)

end Sys2Proof.Machine
end

section
/-! SUPPORT. Little-endian and big-endian lists of bytes: their values, and the two encodings as inverses (20_memory.md
R54, R55). -/

namespace Sys2Proof.Machine

/-! ## Values -/

theorem leDec_eq_sum (bs : List Byte) :
    leDec bs = ∑ i ∈ Finset.range bs.length, (bs.getD i 0).toNat * 256 ^ i := by
  induction bs with
  | nil => rfl
  | cons b bs ih =>
    simp only [leDec, List.length_cons, Finset.sum_range_succ', List.getD_cons_succ, List.getD_cons_zero, pow_zero,
      mul_one, ih, Finset.mul_sum, pow_succ]
    rw [add_comm]
    congr 1
    exact Finset.sum_congr rfl fun i _ => by ring

theorem beDec_eq_sum (bs : List Byte) :
    beDec bs = ∑ i ∈ Finset.range bs.length, (bs.getD i 0).toNat * 256 ^ (bs.length - 1 - i) := by
  rw [beDec, leDec_eq_sum, List.length_reverse, ← Finset.sum_range_reflect]
  refine Finset.sum_congr rfl fun i hi => ?_
  have hi : i < bs.length := Finset.mem_range.mp hi
  rw [List.getD_reverse _ (by omega), show bs.length - 1 - (bs.length - 1 - i) = i by omega]

theorem leDec_lt (bs : List Byte) : leDec bs < 256 ^ bs.length := by
  induction bs with
  | nil => exact Nat.one_pos
  | cons b bs ih =>
    have hb : b.toNat < 256 := b.isLt
    rw [leDec, List.length_cons, pow_succ]
    omega

theorem beDec_lt (bs : List Byte) : beDec bs < 256 ^ bs.length := by
  simpa [beDec] using leDec_lt bs.reverse

/-! ## Encodings -/

@[simp] theorem leEnc_length (k v : Nat) : (leEnc k v).length = k := by simp [leEnc]

@[simp] theorem beEnc_length (k v : Nat) : (beEnc k v).length = k := by simp [beEnc]

/-- The lowest byte comes first, and the others encode what is above it. -/
theorem leEnc_succ (k v : Nat) : leEnc (k + 1) v = BitVec.ofNat 8 v :: leEnc k (v / 256) := by
  have hshift (i : Nat) : v >>> (8 * (i + 1)) = (v / 256) >>> (8 * i) := by
    rw [Nat.mul_succ, Nat.add_comm, Nat.shiftRight_add, Nat.shiftRight_eq_div_pow v 8]
  simp [leEnc, List.range_succ_eq_map, hshift]

/-- Big-endian is little-endian with the bytes in the other order. -/
theorem beEnc_eq_reverse (k v : Nat) : beEnc k v = (leEnc k v).reverse := by
  refine List.ext_getElem (by simp) fun i hi _ => ?_
  simp [beEnc, leEnc]

theorem leEnc_getD {k i : Nat} (v : Nat) (hi : i < k) : ((leEnc k v).getD i 0).toNat = (v >>> (8 * i)) &&& 0xFF := by
  rw [List.getD_eq_getElem _ _ (by simpa using hi), Nat.and_two_pow_sub_one_eq_mod _ 8]
  simp [leEnc]

theorem beEnc_getD {k i : Nat} (v : Nat) (hi : i < k) :
    ((beEnc k v).getD i 0).toNat = (v >>> (8 * (k - 1 - i))) &&& 0xFF := by
  rw [beEnc_eq_reverse, List.getD_reverse _ (by simpa using hi), leEnc_length, leEnc_getD v (by omega)]

/-! ## Inverses -/

theorem leDec_leEnc {k v : Nat} (h : v < 256 ^ k) : leDec (leEnc k v) = v := by
  induction k generalizing v with
  | zero =>
    obtain rfl : v = 0 := by simpa using h
    rfl
  | succ k ih =>
    rw [pow_succ] at h
    rw [leEnc_succ, leDec, ih (by omega), BitVec.toNat_ofNat]
    omega

theorem beDec_beEnc {k v : Nat} (h : v < 256 ^ k) : beDec (beEnc k v) = v := by
  rw [beDec, beEnc_eq_reverse, List.reverse_reverse, leDec_leEnc h]

theorem leEnc_leDec (bs : List Byte) : leEnc bs.length (leDec bs) = bs := by
  induction bs with
  | nil => rfl
  | cons b bs ih =>
    have hb : b.toNat < 256 := b.isLt
    have hlow : BitVec.ofNat 8 (leDec (b :: bs)) = b := by
      apply BitVec.eq_of_toNat_eq
      rw [BitVec.toNat_ofNat, leDec]
      omega
    have hhigh : leDec (b :: bs) / 256 = leDec bs := by rw [leDec]; omega
    rw [List.length_cons, leEnc_succ, hlow, hhigh, ih]

theorem beEnc_beDec (bs : List Byte) : beEnc bs.length (beDec bs) = bs := by
  rw [beEnc_eq_reverse, beDec, ← List.length_reverse, leEnc_leDec, List.reverse_reverse]

/-- Settles O14. -/
theorem integerDecodeSums : Obligations.IntegerDecodeSums :=
  ⟨fun bs => ⟨leDec_eq_sum bs, beDec_eq_sum bs, leDec_lt bs, beDec_lt bs⟩, fun _ => ⟨rfl, rfl⟩⟩

/-- Settles O15. -/
theorem integerEncodeInverts : Obligations.IntegerEncodeInverts :=
  ⟨fun k v h => ⟨leEnc_length k v, beEnc_length k v, fun _ hi => ⟨leEnc_getD v hi, beEnc_getD v hi⟩,
    leDec_leEnc h, beDec_beEnc h⟩, fun bs => ⟨leEnc_leDec bs, beEnc_beDec bs⟩⟩

end Sys2Proof.Machine
end

section
/-! SUPPORT. What each host action does (20_memory.md R61 to R66). -/

namespace Sys2Proof.Machine

theorem issue_of_decode {cmd : Command} {i : Instr} (h : decode cmd = .ok i) (s : State) : issue cmd s = exec i s := by
  rw [issue, h]

theorem State.frameReply_eq (s : State) :
    s.frameReply = .frame ((List.range (min s.flen.toNat 0x120)).map s.fb.read) s.flen := by
  rw [State.frameReply, Memory.readList_zero]
  rfl

theorem State.textReply_eq (s : State) :
    s.textReply = .text ((List.range (min s.tlen.toNat 32)).map s.tb.read) s.tlen := by
  rw [State.textReply, State.textString, Memory.readList_zero]
  rfl

theorem State.getX_eq (s : State) (i : Fin 3) : s.getX i = if i = 0 then s.x0 else if i = 1 then s.x1 else s.x2 := by
  fin_cases i <;> rfl

theorem State.setX_eq (s : State) (i : Fin 3) (v : XWord) : s.setX i v =
    { s with x0 := if i = 0 then v else s.x0, x1 := if i = 1 then v else s.x1, x2 := if i = 2 then v else s.x2 } := by
  fin_cases i <;> rfl

/-- Settles O57. -/
theorem framePresented : Obligations.FramePresented := fun s bs =>
  ⟨_, rfl, fun _ hi => s.fb.read_presented bs fbSize hi, fun _ ha => s.fb.read_beyond_presented bs fbSize ha⟩

/-- Settles O58. -/
theorem textPresented : Obligations.TextPresented :=
  ⟨fun s bs => ⟨_, rfl, fun _ hi => s.tb.read_presented bs tbSize hi,
      fun _ ha => s.tb.read_beyond_presented bs tbSize ha⟩,
    fun s => by rw [runInput, State.reveal, s.textReply_eq]⟩

/-- Settles O6. -/
theorem stepRunsTheDecodedInstruction : Obligations.StepRunsTheDecodedInstruction :=
  ⟨fun _ _ _ hin => step_of_input hin,
    fun _ _ _ _ hin hdecode => (step_of_input hin).trans (issue_of_decode hdecode _)⟩

/-- Settles O59. -/
theorem hostReadsAndWrites : Obligations.HostReadsAndWrites := by
  refine ⟨fun s => ?read, fun s i => ?getx, fun s i v => ?setx, fun s => rfl⟩
  case read => rw [runInput, State.reveal, s.frameReply_eq]
  case getx => rw [runInput, State.reveal, s.getX_eq]
  case setx => rw [runInput, s.setX_eq]

end Sys2Proof.Machine
end

section
/-! SUPPORT. Two runs of one step, from states that differ only in the bytes the host cannot see (20_memory.md R51). -/

namespace Sys2Proof.Machine

/-! ## States with the same visible part -/

/-- The state with other contents of the two buffers. -/
def State.withBuffers (s : State) (fb tb : Memory) : State := { s with fb := fb, tb := tb }

/-- Buffers with the same visible bytes: those of `FB` inside the window and those of `TB` below `TLEN`. -/
structure SameVisible (s : State) (fb tb : Memory) : Prop where
  fb : ∀ a < s.window, s.fb.read a = fb.read a
  tb : ∀ a < min s.tlen.toNat tbSize, s.tb.read a = tb.read a

theorem SameView.of_visible {s : State} {fb tb : Memory} (h : SameVisible s fb tb) :
    SameView s (s.withBuffers fb tb) where
  x0 := rfl
  x1 := rfl
  x2 := rfl
  err := rfl
  eflags := rfl
  crc := rfl
  flen := rfl
  tlen := rfl
  record := rfl
  fb := h.fb
  tb := h.tb
  inputs := rfl
  replies := rfl

/-- A state with the same view is the same state with other buffers, which agree on the visible bytes. -/
theorem SameView.visible {s s' : State} (h : SameView s s') :
    ∃ fb tb, s' = s.withBuffers fb tb ∧ SameVisible s fb tb := by
  obtain ⟨hx0, hx1, hx2, herr, heflags, hcrc, hflen, htlen, hrecord, hfb, htb, hinputs, hreplies⟩ := h
  refine ⟨s'.fb, s'.tb, ?_, hfb, htb⟩
  rw [State.withBuffers, hx0, hx1, hx2, herr, heflags, hcrc, hflen, htlen, hrecord, hinputs, hreplies]

/-! ## Operations -/

/-- A check that two runs share, before results that agree once it has passed. -/
theorem ResultsAgree.check_of_passed {R : State → State → Prop} {r r' : Except Exc State} {c : Bool} {e : Exc}
    (h : c = false → ResultsAgree R r r') :
    ResultsAgree R (Machine.check c e r) (Machine.check c e r') := by
  cases c
  · exact h rfl
  · exact .error e

/-- The check digit is a function of the characters 2 to 9 (44_checksum.md R158). -/
theorem checkDigit_congr {d d' : Nat → Nat} (h : ∀ i < 10, d i = d' i) : checkDigit d = checkDigit d' := by
  simp only [checkDigit, h 2 (by decide), h 3 (by decide), h 4 (by decide), h 5 (by decide), h 6 (by decide),
    h 7 (by decide), h 8 (by decide), h 9 (by decide)]

section
variable {s : State} {fb tb : Memory} (h : SameVisible s fb tb)

/-- The relation that a run from `s` and one from `s` with other buffers meet. -/
abbrev ViewsAgree (s : State) (fb tb : Memory) (op : State → Except Exc State) : Prop :=
  ResultsAgree SameView (op s) (op (s.withBuffers fb tb))

include h

/-- A range inside the window reads the same in both buffers. -/
theorem SameVisible.readList_fb {a n : Nat} (hn : a + n ≤ s.window) : s.fb.readList a n = fb.readList a n :=
  Memory.readList_congr fun b hb => h.fb b (by omega)

/-- A string no longer than `TLEN` reads the same in both buffers. -/
theorem SameVisible.readList_tb {n : Nat} (hn : n ≤ min s.tlen.toNat tbSize) : s.tb.readList 0 n = tb.readList 0 n :=
  Memory.readList_congr fun b hb => h.tb b (by omega)

/-- An update of the registers and the record that leaves both lengths leaves the same bytes visible. -/
theorem SameVisible.view {u : State} (hfb : u.fb = s.fb := by rfl) (htb : u.tb = s.tb := by rfl)
    (hflen : u.flen = s.flen := by rfl) (htlen : u.tlen = s.tlen := by rfl) :
    SameView u (u.withBuffers fb tb) :=
  .of_visible { fb := by rw [State.window, hfb, hflen]; exact h.fb, tb := by rw [htb, htlen]; exact h.tb }

/-- The same of the three pieces that an operation on checksums writes, with the two states written out: comparing them
then never evaluates a CRC. -/
theorem SameVisible.checksum (crc : BitVec 16) (x2 : XWord) (record : RecFile) :
    SameView { s with crc := crc, x2 := x2, record := record }
      { s with crc := crc, x2 := x2, record := record, fb := fb, tb := tb } := h.view

theorem opExt_views (W o n : Nat) : ViewsAgree s fb tb (opExt W o n) := by
  by_cases hc : InField W o n
  · simp only [ViewsAgree, opExt, dif_pos hc]
    exact .check _ _ (.ok h.view)
  · simp only [ViewsAgree, opExt, dif_neg hc]
    exact .error _

theorem opPack_views (W o n : Nat) : ViewsAgree s fb tb (opPack W o n) := by
  by_cases hc : InField W o n
  · simp only [ViewsAgree, opPack, dif_pos hc, State.withBuffers]
    refine .check _ _ ?_
    split
    · exact .error _
    · exact .ok h.view
  · simp only [ViewsAgree, opPack, dif_neg hc]
    exact .error _

/-- A load reads inside the window only (20_memory.md R52). -/
theorem opLoad_views (order : ByteOrder) (k off : Nat) : ViewsAgree s fb tb (opLoad order k off) := by
  refine .check_of_passed fun hin => ?_
  have hread := h.readList_fb (a := off) (n := k) (by simpa [State.inWindow] using hin)
  simp only [State.withBuffers, ← hread]
  exact .ok h.view

theorem opStore_views (order : ByteOrder) (k off : Nat) : ViewsAgree s fb tb (opStore order k off) :=
  .check _ _ (.check _ _ (.ok (.of_visible
    { fb := fun b hb => Memory.read_writeList_congr off _ (h.fb b hb), tb := h.tb })))

/-- A decode reads the frame only where `FLEN` is its size, so inside the window (42_record.md R121). -/
theorem opDecode_views {size : Nat} (hsize : size ≤ fbSize) (load : RecFile → List Byte → RecFile) :
    ViewsAgree s fb tb (opDecode size load) := by
  refine .check_of_passed fun hlen => ?_
  have hflen : s.flen.toNat = size := by simpa using hlen
  have hread := h.readList_fb (a := 0) (n := size) (by rw [State.window, hflen]; omega)
  simp only [State.withBuffers, ← hread]
  exact .ok h.view

/-- An encode rewrites all of the window it leaves (42_record.md R122). -/
theorem opEncode_views {size : Nat} {bytes : RecFile → List Byte} (hb : ∀ c, (bytes c).length = size) :
    ViewsAgree s fb tb (opEncode size bytes) := by
  refine .ok (.of_visible { fb := fun a ha => Memory.read_writeList_zero_eq _ _ ?_, tb := h.tb })
  have hwindow : a < min (BitVec.ofNat 16 size).toNat fbSize := ha
  rw [BitVec.toNat_ofNat] at hwindow
  have := Nat.mod_le size (2 ^ 16)
  rw [hb]
  omega

theorem opGet_views (g : FieldId) (idx : Nat) : ViewsAgree s fb tb (opGet g idx) := .check _ _ (.ok h.view)

theorem opSet_views (g : FieldId) (idx : Nat) : ViewsAgree s fb tb (opSet g idx) := by
  simp only [ViewsAgree, opSet, State.withBuffers]
  refine .check _ _ ?_
  split
  · exact .error _
  · exact .ok h.view

/-- TXT.DEC rewrites all of the string it leaves (43_text.md R142). -/
theorem opTextDec_views (t : TextField) : ViewsAgree s fb tb (opTextDec t) := by
  refine .ok (.of_visible { fb := h.fb, tb := fun a ha => Memory.read_writeList_zero_eq _ _ ?_ })
  have hstring : a < min (BitVec.ofNat 8 (textDec (s.record.units t)).length).toNat tbSize := ha
  rw [BitVec.toNat_ofNat] at hstring
  have := Nat.mod_le (textDec (s.record.units t)).length (2 ^ 8)
  omega

/-- TXT.ENC reads the string only where it fits its field, so inside `TB` (43_text.md R143). -/
theorem opTextEnc_views (t : TextField) : ViewsAgree s fb tb (opTextEnc t) := by
  refine .check_of_passed fun hlen => ?_
  have hcap : s.tlen.toNat ≤ t.capacity := by simpa using hlen
  have hread := h.readList_tb (n := s.tlen.toNat) (by have := capacity_le_tbSize t; omega)
  simp only [State.withBuffers, ← hread]
  exact .ok h.view

/-- CRC16 reads inside the window only (44_checksum.md R154). -/
theorem opCrc16_views (off len : Nat) : ViewsAgree s fb tb (opCrc16 off len) := by
  refine .check_of_passed fun hin => ?_
  have hread := h.readList_fb (a := off) (n := len) (by simpa [State.inWindow] using hin)
  simp only [State.withBuffers, ← hread]
  exact .ok h.view

theorem opVerify_views : ViewsAgree s fb tb opVerify := by
  simp only [ViewsAgree, opVerify, State.withBuffers]
  exact .ok (h.checksum ..)

theorem opFix_views : ViewsAgree s fb tb opFix := by
  simp only [ViewsAgree, opFix, State.withBuffers]
  exact .ok (h.checksum ..)

theorem opZero_views : ViewsAgree s fb tb opZero := by
  simp only [ViewsAgree, opZero, opFix, State.withBuffers]
  exact .ok (h.checksum ..)

/-- CHK.DGT reads ten characters only where `TLEN` is ten (44_checksum.md R159). -/
theorem opCheckDigit_views : ViewsAgree s fb tb opCheckDigit := by
  refine .check_of_passed fun hlen => ?_
  have htlen : s.tlen.toNat = 10 := by simpa using hlen
  have hread := h.readList_tb (n := 10) (by rw [htlen]; decide)
  have hdigit : checkDigit (fun i => (s.tb.read i).toNat - 0x30) = checkDigit (fun i => (tb.read i).toNat - 0x30) :=
    checkDigit_congr fun i hi => by rw [h.tb i (by rw [htlen]; exact hi)]
  simp only [State.withBuffers, ← hread, ← hdigit]
  exact .check _ _ (.ok h.view)

/-- No operation lets a hidden byte show in its result. -/
theorem operation_views (i : Instr) : ViewsAgree s fb tb (operation i) := by
  cases i with
  | bfExt => exact opExt_views h ..
  | bfPack => exact opPack_views h ..
  | ldiLe | ldiBe => exact opLoad_views h ..
  | stiLe | stiBe => exact opStore_views h ..
  | avaDec | frdDec => exact opDecode_views h (by decide) _
  | cavDec => exact opDecode_views h (by decide) (fun c bs => c.loadChecksummed bs 0)
  | avaEnc => exact opEncode_views h (bytes := fun c => packAvatar c.a) fun c => packAvatar_length c.a
  | cavEnc => exact opEncode_views h packChecksummed_length
  | frdEnc => exact opEncode_views h packFriend_length
  | fldGet => exact opGet_views h ..
  | fldSet => exact opSet_views h ..
  | recZero => exact opZero_views h
  | txtDec => exact opTextDec_views h ..
  | txtEnc => exact opTextEnc_views h ..
  | crc16 => exact opCrc16_views h ..
  | crcVfy => exact opVerify_views h
  | crcFix => exact opFix_views h
  | chkDgt => exact opCheckDigit_views h

end

/-! ## Inputs and steps -/

/-- Two answers agree: both are next states, and those have the same view. -/
inductive AnswersAgree : Answer → Answer → Prop
  | next {t t' : State} (h : SameView t t') : AnswersAgree (.next t) (.next t')

theorem SameView.refl (s : State) : SameView s s :=
  .of_visible (fb := s.fb) (tb := s.tb) { fb := fun _ _ => rfl, tb := fun _ _ => rfl }

@[simp] theorem State.getX_withBuffers (s : State) (fb tb : Memory) (i : Fin 3) :
    (s.withBuffers fb tb).getX i = s.getX i := by
  fin_cases i <;> rfl

theorem State.setX_withBuffers (s : State) (fb tb : Memory) (i : Fin 3) (v : XWord) :
    (s.withBuffers fb tb).setX i v = (s.setX i v).withBuffers fb tb := by
  fin_cases i <;> rfl

section
variable {s : State} {fb tb : Memory} (h : SameVisible s fb tb)
include h

/-- Two runs that end alike answer alike. -/
theorem ResultsAgree.complete {r r' : Except Exc State} (hr : ResultsAgree SameView r r') :
    AnswersAgree (Machine.complete s r) (Machine.complete (s.withBuffers fb tb) r') := by
  cases hr with
  | error e => exact .next h.view
  | ok hu =>
    obtain ⟨fb', tb', rfl, hvisible⟩ := hu.visible
    exact .next hvisible.view

/-- Writing a data register shows no hidden byte. -/
theorem SameVisible.setX (i : Fin 3) (v : XWord) : SameView (s.setX i v) ((s.withBuffers fb tb).setX i v) := by
  rw [State.setX_withBuffers]
  exact h.view (s.setX_fb i v) (s.setX_tb i v) (s.setX_flen i v) (s.setX_tlen i v)

/-- A frame presented covers the window that its length leaves (20_memory.md R61). -/
theorem SameVisible.presentFrame (bs : List Byte) :
    SameView (s.presentFrame bs) ((s.withBuffers fb tb).presentFrame bs) := by
  refine .of_visible { fb := fun a ha => Memory.read_writeList_zero_eq _ _ ?_, tb := h.tb }
  rw [State.window, State.presentFrame_flen, BitVec.toNat_ofNat] at ha
  rw [List.length_take]
  omega

/-- A text presented covers the string that its length leaves (20_memory.md R64). -/
theorem SameVisible.presentText (bs : List Byte) :
    SameView (s.presentText bs) ((s.withBuffers fb tb).presentText bs) := by
  refine .of_visible { fb := h.fb, tb := fun a ha => Memory.read_writeList_zero_eq _ _ ?_ }
  rw [State.presentText_tlen, BitVec.toNat_ofNat] at ha
  rw [List.length_take]
  omega

theorem SameVisible.frameReply : (s.withBuffers fb tb).frameReply = s.frameReply := by
  rw [State.frameReply, State.frameReply, h.readList_fb (Nat.zero_add _).le]
  rfl

theorem SameVisible.textReply : (s.withBuffers fb tb).textReply = s.textReply := by
  rw [State.textReply, State.textReply, State.textString, State.textString, h.readList_tb le_rfl]
  rfl

theorem issue_views (cmd : Command) : AnswersAgree (issue cmd s) (issue cmd (s.withBuffers fb tb)) := by
  unfold issue
  cases decode cmd with
  | error _ => exact .next h.view
  | ok i =>
    simp only [exec_eq_complete]
    exact (operation_views h i).complete h

/-- No input lets a hidden byte show, neither in the state nor to the host. -/
theorem runInput_views (a : Input) : AnswersAgree (runInput a s) (runInput a (s.withBuffers fb tb)) := by
  cases a with
  | frame bs => exact .next (h.presentFrame bs)
  | text bs => exact .next (h.presentText bs)
  | read => simp only [runInput, h.frameReply]; exact .next h.view
  | rtext => simp only [runInput, h.textReply]; exact .next h.view
  | getx i => simp only [runInput, State.getX_withBuffers]; exact .next h.view
  | status => exact .next h.view
  | setx i v => exact .next (h.setX i v)
  | movx i j =>
    simp only [runInput, State.getX_withBuffers]
    -- showing `x[j]` first leaves the buffers, so the two runs still differ in them only
    have hrevealed : SameVisible (s.reveal (.xreg j (s.getX j))) fb tb := { fb := h.fb, tb := h.tb }
    exact .next (hrevealed.setX i (s.getX j))
  | issue cmd => exact issue_views h cmd
  | reset => exact .next (.refl s.resetBlock)

theorem step_views : AnswersAgree (step s) (step (s.withBuffers fb tb)) := by
  cases hin : s.inputs with
  | nil =>
    rw [step_of_no_input hin, step_of_no_input (s := s.withBuffers fb tb) hin]
    exact .next h.view
  | cons a rest =>
    rw [step_of_input hin, step_of_input (s := s.withBuffers fb tb) hin]
    have hrest : SameVisible { s with inputs := rest } fb tb := { fb := h.fb, tb := h.tb }
    exact runInput_views hrest a

end

/-- Settles O51: a state with the same view differs in hidden bytes only, and no step reads one of them. -/
theorem hiddenBytesNeverShow : Obligations.HiddenBytesNeverShow := by
  intro s s' t hview hstep
  obtain ⟨fb, tb, rfl, hvisible⟩ := hview.visible
  have hagree := step_views hvisible
  rw [hstep] at hagree
  generalize step (s.withBuffers fb tb) = r at hagree ⊢
  cases hagree with
  | next ht => exact ⟨_, rfl, ht⟩

end Sys2Proof.Machine
end

/-! # The command word (30_encoding.md) -/

section
/-! SUPPORT. The selectors and ids of a command word name what they should, and nothing else (30_encoding.md R77, R78, R82,
R83). -/

namespace Sys2Proof

theorem Width.ofCode_eq_iff {c : BitVec 2} {W : Width} : Width.ofCode c = W ↔ c = W.code := by
  cases W <;> revert c <;> decide

/-- `W = 8 << wsel` (R82). -/
theorem Width.bits_ofCode (c : BitVec 2) : (Width.ofCode c).bits = 8 * 2 ^ c.toNat := by
  revert c; decide

theorem Size.ofCode_eq_iff {c : BitVec 2} {k : Size} : Size.ofCode c = k ↔ c = k.code := by
  cases k <;> revert c <;> decide

/-- The search for a field's own `fid` finds that field: no two fields share one (R77). -/
theorem FieldId.ofCode_code (f : FieldId) : FieldId.ofCode f.code = some f := by
  cases f with
  | reg r => cases r <;> rfl
  | sub g => cases g <;> rfl

theorem FieldId.ofCode_eq_some_iff {c : BitVec 8} {f : FieldId} : FieldId.ofCode c = some f ↔ c = f.code := by
  constructor
  · intro h
    exact (beq_iff_eq.mp (List.find?_some (p := fun g => FieldId.code g == c) h)).symm
  · rintro rfl
    exact f.ofCode_code

theorem TextField.ofCode_eq_some_iff {c : BitVec 3} {t : TextField} : TextField.ofCode c = some t ↔ c = t.code := by
  cases t <;> revert c <;> decide

/-- The ids 6 and 7 are the unassigned ones (R78). -/
theorem TextField.exists_ofCode_iff {c : BitVec 3} : (∃ t, TextField.ofCode c = some t) ↔ c.toNat ≤ 5 := by
  rw [← Option.isSome_iff_exists]
  revert c
  decide

end Sys2Proof
end

section
/-! SUPPORT. A command word as the number its fields stand for: the encoder puts each operand at its place value, and two
words with the same fields are the same word (30_encoding.md R80 to R86, R88). -/

namespace Sys2Proof.Machine

/-! ## Fields of a word -/

theorem toNat_extractLsb'_eq_operand (cmd : Command) (lo n : Nat) :
    (cmd.extractLsb' lo n).toNat = operand cmd lo n := by
  rw [BitVec.extractLsb'_toNat, Nat.shiftRight_eq_div_pow, operand]

theorem extractLsb'_eq_iff {cmd : Command} {lo n : Nat} {v : BitVec n} :
    cmd.extractLsb' lo n = v ↔ operand cmd lo n = v.toNat := by
  rw [← BitVec.toNat_inj, toNat_extractLsb'_eq_operand]

theorem extractLsb'_eq_zero_iff {cmd : Command} {lo n : Nat} : cmd.extractLsb' lo n = 0 ↔ operand cmd lo n = 0 := by
  rw [extractLsb'_eq_iff, BitVec.ofNat_eq_ofNat, BitVec.toNat_ofNat, Nat.zero_mod]

/-- Putting a field above all the bits of a word adds its place value. -/
theorem toNat_or_field {word : Command} {w lo : Nat} (v : BitVec w) (hlow : word.toNat < 2 ^ lo) (hfit : lo + w ≤ 32) :
    (word ||| v.setWidth 32 <<< lo).toNat = word.toNat + v.toNat * 2 ^ lo := by
  have hv : v.toNat * 2 ^ lo < 2 ^ 32 :=
    calc v.toNat * 2 ^ lo < 2 ^ w * 2 ^ lo := Nat.mul_lt_mul_of_pos_right v.isLt (Nat.two_pow_pos lo)
      _ = 2 ^ (lo + w) := by rw [Nat.add_comm, Nat.pow_add]
      _ ≤ 2 ^ 32 := Nat.pow_le_pow_right Nat.two_pos hfit
  have hwidth : v.toNat < 2 ^ 32 := v.isLt.trans_le (Nat.pow_le_pow_right Nat.two_pos (by omega))
  rw [BitVec.toNat_or, BitVec.toNat_shiftLeft, BitVec.toNat_setWidth, Nat.mod_eq_of_lt hwidth, Nat.shiftLeft_eq,
    Nat.mod_eq_of_lt hv, ← Nat.shiftLeft_eq, Nat.or_comm, ← Nat.shiftLeft_add_eq_or_of_lt hlow, Nat.add_comm]

/-! ## The number a format's word is -/

theorem toNat_encodeZ (op : BitVec 8) : (encodeZ op).toNat = op.toNat :=
  BitVec.toNat_setWidth_of_le (by decide)

/-- Every other format puts a first field above the operation code (R81 to R86). -/
theorem toNat_op_or_field (op : BitVec 8) {w : Nat} (v : BitVec w) (hfit : 8 + w ≤ 32) :
    (op.setWidth 32 ||| v.setWidth 32 <<< 8).toNat = op.toNat + v.toNat * 2 ^ 8 := by
  have hop : (op.setWidth 32).toNat = op.toNat := toNat_encodeZ op
  rw [toNat_or_field v (by rw [hop]; exact op.isLt) hfit, hop]

theorem toNat_encodeB (op : BitVec 8) (W : Width) (o : BitVec 6) (n : BitVec 7) :
    (encodeB op W o n).toNat = op.toNat + W.code.toNat * 2 ^ 8 + o.toNat * 2 ^ 10 + n.toNat * 2 ^ 16 := by
  have hW := toNat_op_or_field op W.code (by decide)
  have ho := toNat_or_field (lo := 10) o (by rw [hW]; omega) (by decide)
  have hn := toNat_or_field (lo := 16) n (by rw [ho]; omega) (by decide)
  rw [encodeB, hn, ho, hW]

theorem toNat_encodeM (op : BitVec 8) (k : Size) (off : BitVec 9) :
    (encodeM op k off).toNat = op.toNat + off.toNat * 2 ^ 8 + k.code.toNat * 2 ^ 17 := by
  have hoff := toNat_op_or_field op off (by decide)
  have hk := toNat_or_field (lo := 17) k.code (by rw [hoff]; omega) (by decide)
  rw [encodeM, hk, hoff]

theorem toNat_encodeC (op : BitVec 8) (off len : BitVec 9) :
    (encodeC op off len).toNat = op.toNat + off.toNat * 2 ^ 8 + len.toNat * 2 ^ 17 := by
  have hoff := toNat_op_or_field op off (by decide)
  have hlen := toNat_or_field (lo := 17) len (by rw [hoff]; omega) (by decide)
  rw [encodeC, hlen, hoff]

theorem toNat_encodeF (op : BitVec 8) (f : FieldId) (idx : BitVec 5) :
    (encodeF op f idx).toNat = op.toNat + f.code.toNat * 2 ^ 8 + idx.toNat * 2 ^ 16 := by
  have hf := toNat_op_or_field op f.code (by decide)
  have hidx := toNat_or_field (lo := 16) idx (by rw [hf]; omega) (by decide)
  rw [encodeF, hidx, hf]

theorem toNat_encodeT (op : BitVec 8) (t : TextField) :
    (encodeT op t).toNat = op.toNat + t.code.toNat * 2 ^ 8 := by
  rw [encodeT, toNat_op_or_field op t.code (by decide)]

/-! ## The fields of a format's word: they and its zeros determine it -/

theorem encodeZ_eq_iff {op : BitVec 8} {cmd : Command} :
    encodeZ op = cmd ↔ cmd.extractLsb' 0 8 = op ∧ cmd.extractLsb' 8 24 = 0 := by
  simp only [← BitVec.toNat_inj (x := encodeZ _), toNat_encodeZ, extractLsb'_eq_iff, operand, BitVec.ofNat_eq_ofNat,
    BitVec.toNat_ofNat]
  omega

theorem encodeB_eq_iff {op : BitVec 8} {W : Width} {o : BitVec 6} {n : BitVec 7} {cmd : Command} :
    encodeB op W o n = cmd ↔ cmd.extractLsb' 0 8 = op ∧ cmd.extractLsb' 8 2 = W.code ∧ cmd.extractLsb' 10 6 = o ∧
      cmd.extractLsb' 16 7 = n ∧ cmd.extractLsb' 23 9 = 0 := by
  simp only [← BitVec.toNat_inj (x := encodeB ..), toNat_encodeB, extractLsb'_eq_iff, operand, BitVec.ofNat_eq_ofNat,
    BitVec.toNat_ofNat]
  omega

theorem encodeM_eq_iff {op : BitVec 8} {k : Size} {off : BitVec 9} {cmd : Command} :
    encodeM op k off = cmd ↔ cmd.extractLsb' 0 8 = op ∧ cmd.extractLsb' 8 9 = off ∧ cmd.extractLsb' 17 2 = k.code ∧
      cmd.extractLsb' 19 13 = 0 := by
  simp only [← BitVec.toNat_inj (x := encodeM ..), toNat_encodeM, extractLsb'_eq_iff, operand, BitVec.ofNat_eq_ofNat,
    BitVec.toNat_ofNat]
  omega

theorem encodeC_eq_iff {op : BitVec 8} {off len : BitVec 9} {cmd : Command} :
    encodeC op off len = cmd ↔ cmd.extractLsb' 0 8 = op ∧ cmd.extractLsb' 8 9 = off ∧ cmd.extractLsb' 17 9 = len ∧
      cmd.extractLsb' 26 6 = 0 := by
  simp only [← BitVec.toNat_inj (x := encodeC ..), toNat_encodeC, extractLsb'_eq_iff, operand, BitVec.ofNat_eq_ofNat,
    BitVec.toNat_ofNat]
  omega

theorem encodeF_eq_iff {op : BitVec 8} {f : FieldId} {idx : BitVec 5} {cmd : Command} :
    encodeF op f idx = cmd ↔ cmd.extractLsb' 0 8 = op ∧ cmd.extractLsb' 8 8 = f.code ∧ cmd.extractLsb' 16 5 = idx ∧
      cmd.extractLsb' 21 11 = 0 := by
  simp only [← BitVec.toNat_inj (x := encodeF ..), toNat_encodeF, extractLsb'_eq_iff, operand, BitVec.ofNat_eq_ofNat,
    BitVec.toNat_ofNat]
  omega

theorem encodeT_eq_iff {op : BitVec 8} {t : TextField} {cmd : Command} :
    encodeT op t = cmd ↔ cmd.extractLsb' 0 8 = op ∧ cmd.extractLsb' 8 3 = t.code ∧ cmd.extractLsb' 11 21 = 0 := by
  simp only [← BitVec.toNat_inj (x := encodeT ..), toNat_encodeT, extractLsb'_eq_iff, operand, BitVec.ofNat_eq_ofNat,
    BitVec.toNat_ofNat]
  omega

end Sys2Proof.Machine
end

section
/-! SUPPORT. The decoder against the encoder: a word decodes to an instruction exactly when that instruction is well-formed
and the word is its encoding (30_encoding.md R80, R87, R89). -/

namespace Sys2Proof.Machine

/-! ## One format -/

section
variable {cmd : Command} {op : BitVec 8} (hop : cmd.extractLsb' 0 8 = op) {i : Instr}
include hop

theorem decodeZ_eq_ok_iff {j : Instr} : decodeZ j cmd = .ok i ↔ j = i ∧ encodeZ op = cmd := by
  rw [decodeZ, encodeZ_eq_iff]
  constructor
  · intro h
    split_ifs at h with hzero
    exact ⟨Except.ok.inj h, hop, not_not.mp hzero⟩
  · rintro ⟨rfl, -, hzero⟩
    rw [if_neg (not_not.mpr hzero)]

theorem decodeB_eq_ok_iff {mk : Width → BitVec 6 → BitVec 7 → Instr} :
    decodeB mk cmd = .ok i ↔
      ∃ W o n, mk W o n = i ∧ InField W.bits o.toNat n.toNat ∧ encodeB op W o n = cmd := by
  simp only [decodeB, encodeB_eq_iff, hop, true_and]
  constructor
  · intro h
    split_ifs at h with hzero hfield
    exact ⟨_, _, _, Except.ok.inj h, hfield, Width.ofCode_eq_iff.mp rfl, rfl, rfl, not_not.mp hzero⟩
  · rintro ⟨W, _, _, rfl, hfield, hW, rfl, rfl, hzero⟩
    rw [← Width.ofCode_eq_iff] at hW
    subst hW
    rw [if_neg (not_not.mpr hzero), if_pos hfield]

theorem decodeM_eq_ok_iff {mk : Size → BitVec 9 → Instr} :
    decodeM mk cmd = .ok i ↔ ∃ k off, mk k off = i ∧ encodeM op k off = cmd := by
  simp only [decodeM, encodeM_eq_iff, hop, true_and]
  constructor
  · intro h
    split_ifs at h with hzero
    exact ⟨_, _, Except.ok.inj h, rfl, Size.ofCode_eq_iff.mp rfl, not_not.mp hzero⟩
  · rintro ⟨k, _, rfl, rfl, hk, hzero⟩
    rw [if_neg (not_not.mpr hzero), Size.ofCode_eq_iff.mpr hk]

theorem decodeC_eq_ok_iff {mk : BitVec 9 → BitVec 9 → Instr} :
    decodeC mk cmd = .ok i ↔ ∃ off len, mk off len = i ∧ encodeC op off len = cmd := by
  simp only [decodeC, encodeC_eq_iff, hop, true_and]
  constructor
  · intro h
    split_ifs at h with hzero
    exact ⟨_, _, Except.ok.inj h, rfl, rfl, not_not.mp hzero⟩
  · rintro ⟨_, _, rfl, rfl, rfl, hzero⟩
    rw [if_neg (not_not.mpr hzero)]

theorem decodeF_eq_ok_iff {mk : FieldId → BitVec 5 → Instr} :
    decodeF mk cmd = .ok i ↔ ∃ f idx, mk f idx = i ∧ idx.toNat < f.count ∧ encodeF op f idx = cmd := by
  simp only [decodeF, encodeF_eq_iff, hop, true_and]
  constructor
  · intro h
    split_ifs at h with hzero
    split at h
    · cases h
    next f hf =>
      split_ifs at h with hidx
      exact ⟨f, _, Except.ok.inj h, hidx, FieldId.ofCode_eq_some_iff.mp hf, rfl, not_not.mp hzero⟩
  · rintro ⟨f, _, rfl, hidx, hf, rfl, hzero⟩
    rw [if_neg (not_not.mpr hzero), FieldId.ofCode_eq_some_iff.mpr hf]
    exact if_pos hidx

theorem decodeT_eq_ok_iff {mk : TextField → Instr} :
    decodeT mk cmd = .ok i ↔ ∃ t, mk t = i ∧ encodeT op t = cmd := by
  simp only [decodeT, encodeT_eq_iff, hop, true_and]
  constructor
  · intro h
    split_ifs at h with hzero
    split at h
    · cases h
    next t ht => exact ⟨t, Except.ok.inj h, TextField.ofCode_eq_some_iff.mp ht, not_not.mp hzero⟩
  · rintro ⟨t, rfl, ht, hzero⟩
    rw [if_neg (not_not.mpr hzero), TextField.ofCode_eq_some_iff.mpr ht]

end

/-! ## All formats -/

/-- What decodes is well-formed, and its encoding is the word. -/
theorem encode_of_decode {cmd : Command} {i : Instr} (h : decode cmd = .ok i) : i.WellFormed ∧ encode i = cmd := by
  unfold decode at h
  split at h
  case h_1 hop | h_2 hop =>
    obtain ⟨W, o, n, rfl, hfield, henc⟩ := (decodeB_eq_ok_iff hop).mp h
    exact ⟨decide_eq_true hfield, henc⟩
  case h_3 hop | h_4 hop | h_5 hop | h_6 hop =>
    obtain ⟨k, off, rfl, henc⟩ := (decodeM_eq_ok_iff hop).mp h
    exact ⟨rfl, henc⟩
  case h_13 hop | h_14 hop =>
    obtain ⟨f, idx, rfl, hidx, henc⟩ := (decodeF_eq_ok_iff hop).mp h
    exact ⟨decide_eq_true hidx, henc⟩
  case h_16 hop | h_17 hop =>
    obtain ⟨t, rfl, henc⟩ := (decodeT_eq_ok_iff hop).mp h
    exact ⟨rfl, henc⟩
  case h_18 hop =>
    obtain ⟨off, len, rfl, henc⟩ := (decodeC_eq_ok_iff hop).mp h
    exact ⟨rfl, henc⟩
  case h_22 => cases h
  all_goals
    next hop =>
      obtain ⟨rfl, henc⟩ := (decodeZ_eq_ok_iff hop).mp h
      exact ⟨rfl, henc⟩

/-- The encoding of a well-formed instruction selects its format, and there decodes to it. -/
theorem decode_encode {i : Instr} (h : i.WellFormed) : decode (encode i) = .ok i := by
  cases i with
  | bfExt W o n | bfPack W o n =>
    rw [decode, encode, Laws.opcode_encodeB]
    exact (decodeB_eq_ok_iff (Laws.opcode_encodeB ..)).mpr ⟨W, o, n, rfl, of_decide_eq_true h, rfl⟩
  | ldiLe k off | ldiBe k off | stiLe k off | stiBe k off =>
    rw [decode, encode, Laws.opcode_encodeM]
    exact (decodeM_eq_ok_iff (Laws.opcode_encodeM ..)).mpr ⟨k, off, rfl, rfl⟩
  | fldGet f idx | fldSet f idx =>
    rw [decode, encode, Laws.opcode_encodeF]
    exact (decodeF_eq_ok_iff (Laws.opcode_encodeF ..)).mpr ⟨f, idx, rfl, of_decide_eq_true h, rfl⟩
  | txtDec t | txtEnc t =>
    rw [decode, encode, Laws.opcode_encodeT]
    exact (decodeT_eq_ok_iff (Laws.opcode_encodeT ..)).mpr ⟨t, rfl, rfl⟩
  | crc16 off len =>
    rw [decode, encode, Laws.opcode_encodeC]
    exact (decodeC_eq_ok_iff (Laws.opcode_encodeC ..)).mpr ⟨off, len, rfl, rfl⟩
  | avaDec | avaEnc | cavDec | cavEnc | frdDec | frdEnc | recZero | crcVfy | crcFix | chkDgt =>
    rw [decode, encode, Laws.opcode_encodeZ]
    exact (decodeZ_eq_ok_iff (Laws.opcode_encodeZ _)).mpr ⟨rfl, rfl⟩

/-- A word decodes to the well-formed instruction whose encoding it is. -/
theorem decode_of_encode {cmd : Command} {i : Instr} (hwf : i.WellFormed) (henc : encode i = cmd) :
    decode cmd = .ok i := henc ▸ decode_encode hwf

/-- Settles O1. -/
theorem decodeOfEncode : Obligations.DecodeOfEncode := fun _ => decode_encode

/-- Settles O2. -/
theorem encodeOfDecode : Obligations.EncodeOfDecode := fun _ _ => encode_of_decode

/-- Settles O5: each word is the encoding of the instruction it stands for. -/
theorem sampleWordsDecode : Obligations.SampleWordsDecode := by
  unfold Obligations.SampleWordsDecode
  and_intros <;> exact decode_of_encode rfl rfl

end Sys2Proof.Machine
end

section
/-! SUPPORT. Legal words: the opcode map's masks against the decoder's tests of the must-be-zero bits, and each format's
static constraints against the decoder's tests of the operands (30_encoding.md R80, R82, R85, R86, R87). -/

namespace Sys2Proof

/-! ## Masks -/

/-- The number of bits a format assigns; the bits from there on must be zero (R81 to R86). -/
def Format.assigned : Format → Nat
  | .Z => 8 | .B => 23 | .M => 19 | .C => 26 | .F => 21 | .T => 11

/-- A mask covers the operation code and the bits that must be zero. -/
theorem Format.getLsbD_mask (f : Format) {k : Nat} (hk : k < 32) :
    f.mask.getLsbD k = (decide (k < 8) || decide (f.assigned ≤ k)) := by
  cases f <;> revert k <;> decide

theorem Format.eight_le_assigned (f : Format) : 8 ≤ f.assigned := by
  cases f <;> decide

theorem Format.and_mask_eq_iff (f : Format) (op : BitVec 8) (cmd : Command) :
    cmd &&& f.mask = op.setWidth 32 ↔
      cmd.extractLsb' 0 8 = op ∧ cmd.extractLsb' f.assigned (32 - f.assigned) = 0 := by
  have hassigned := f.eight_le_assigned
  simp only [BitVec.eq_of_getLsbD_eq_iff, BitVec.getLsbD_and, BitVec.getLsbD_setWidth, BitVec.getLsbD_extractLsb',
    BitVec.ofNat_eq_ofNat, BitVec.getLsbD_zero]
  constructor
  · intro h
    refine ⟨fun k hk => ?op, fun k hk => ?zero⟩
    case op =>
      have hbit := h k (by omega)
      rw [f.getLsbD_mask (by omega)] at hbit
      simpa [hk, show k < 32 by omega] using hbit
    case zero =>
      have hbit := h (f.assigned + k) (by omega)
      rw [f.getLsbD_mask (by omega), BitVec.getLsbD_of_ge op _ (by omega)] at hbit
      simpa [hk] using hbit
  · rintro ⟨hop, hzero⟩ k hk
    rw [f.getLsbD_mask hk]
    by_cases hlow : k < 8
    · simpa [hlow, hk] using hop k hlow
    · rw [BitVec.getLsbD_of_ge op k (by omega)]
      by_cases hhigh : f.assigned ≤ k
      · have hbit := hzero (k - f.assigned) (by omega)
        rw [Nat.add_sub_cancel' hhigh] at hbit
        simpa [hhigh, show k - f.assigned < 32 - f.assigned by omega] using hbit
      · simp [hlow, hhigh]

end Sys2Proof

namespace Sys2Proof.Machine

/-! ## One format -/

/-- What a format asks of a word with one of its operation codes: zeros above its operands, and its static constraints. -/
def Accepted (f : Format) (cmd : Command) : Prop :=
  operand cmd f.assigned (32 - f.assigned) = 0 ∧ staticConstraint f cmd

/-- A test that rejects a word, before the rest of its decoding. -/
theorem exists_ok_reject_iff {c : Prop} [Decidable c] {e : Illegal} {r : Except Illegal Instr} :
    (∃ i, (if c then .error e else r) = .ok i) ↔ ¬ c ∧ ∃ i, r = .ok i := by
  split_ifs with hc <;> simp [hc]

/-- The last test of a decoding. -/
theorem exists_ok_accept_iff {c : Prop} [Decidable c] {e : Illegal} {i : Instr} :
    (∃ j, (if c then .ok i else .error e : Except Illegal Instr) = .ok j) ↔ c := by
  split_ifs with hc <;> simp [hc]

section
variable {cmd : Command}

theorem decodeZ_accepted_iff (j : Instr) : (∃ i, decodeZ j cmd = .ok i) ↔ Accepted .Z cmd := by
  rw [decodeZ, exists_ok_reject_iff, not_ne_iff, extractLsb'_eq_zero_iff]
  simp [Accepted, Format.assigned, staticConstraint]

theorem decodeB_accepted_iff (mk : Width → BitVec 6 → BitVec 7 → Instr) :
    (∃ i, decodeB mk cmd = .ok i) ↔ Accepted .B cmd := by
  rw [decodeB, exists_ok_reject_iff, not_ne_iff, extractLsb'_eq_zero_iff, exists_ok_accept_iff, Width.bits_ofCode]
  simp only [toNat_extractLsb'_eq_operand]
  rfl

theorem decodeM_accepted_iff (mk : Size → BitVec 9 → Instr) : (∃ i, decodeM mk cmd = .ok i) ↔ Accepted .M cmd := by
  rw [decodeM, exists_ok_reject_iff, not_ne_iff, extractLsb'_eq_zero_iff]
  simp [Accepted, Format.assigned, staticConstraint]

theorem decodeC_accepted_iff (mk : BitVec 9 → BitVec 9 → Instr) : (∃ i, decodeC mk cmd = .ok i) ↔ Accepted .C cmd := by
  rw [decodeC, exists_ok_reject_iff, not_ne_iff, extractLsb'_eq_zero_iff]
  simp [Accepted, Format.assigned, staticConstraint]

theorem decodeF_accepted_iff (mk : FieldId → BitVec 5 → Instr) :
    (∃ i, decodeF mk cmd = .ok i) ↔ Accepted .F cmd := by
  rw [decodeF, exists_ok_reject_iff, not_ne_iff, extractLsb'_eq_zero_iff]
  refine and_congr_right fun _ => ?_
  simp only [staticConstraint, ← toNat_extractLsb'_eq_operand, BitVec.toNat_inj, eq_comm (a := FieldId.code _),
    ← FieldId.ofCode_eq_some_iff]
  split
  next hnone => simp [hnone]
  next f hf => simp [hf, exists_ok_accept_iff]

theorem decodeT_accepted_iff (mk : TextField → Instr) : (∃ i, decodeT mk cmd = .ok i) ↔ Accepted .T cmd := by
  rw [decodeT, exists_ok_reject_iff, not_ne_iff, extractLsb'_eq_zero_iff]
  refine and_congr_right fun _ => ?_
  simp only [staticConstraint, ← toNat_extractLsb'_eq_operand, ← TextField.exists_ofCode_iff]
  split
  next hnone => simp [hnone]
  next t ht => simp [ht]

end

/-! ## The opcode map -/

/-- Every encoding carries the operation code of the instruction's row, which is one of the map's (R87). -/
theorem encode_matches_row (i : Instr) : Laws.EncodeMatchesRow.Statement i := by
  cases i with
  | bfExt W o n => exact Laws.EncodeMatchesRow.bfExt W o n
  | bfPack W o n => exact Laws.EncodeMatchesRow.bfPack W o n
  | ldiLe k off => exact Laws.EncodeMatchesRow.ldiLe k off
  | ldiBe k off => exact Laws.EncodeMatchesRow.ldiBe k off
  | stiLe k off => exact Laws.EncodeMatchesRow.stiLe k off
  | stiBe k off => exact Laws.EncodeMatchesRow.stiBe k off
  | avaDec => exact Laws.EncodeMatchesRow.avaDec
  | avaEnc => exact Laws.EncodeMatchesRow.avaEnc
  | cavDec => exact Laws.EncodeMatchesRow.cavDec
  | cavEnc => exact Laws.EncodeMatchesRow.cavEnc
  | frdDec => exact Laws.EncodeMatchesRow.frdDec
  | frdEnc => exact Laws.EncodeMatchesRow.frdEnc
  | fldGet f idx => exact Laws.EncodeMatchesRow.fldGet f idx
  | fldSet f idx => exact Laws.EncodeMatchesRow.fldSet f idx
  | recZero => exact Laws.EncodeMatchesRow.recZero
  | txtDec t => exact Laws.EncodeMatchesRow.txtDec t
  | txtEnc t => exact Laws.EncodeMatchesRow.txtEnc t
  | crc16 off len => exact Laws.EncodeMatchesRow.crc16 off len
  | crcVfy => exact Laws.EncodeMatchesRow.crcVfy
  | crcFix => exact Laws.EncodeMatchesRow.crcFix
  | chkDgt => exact Laws.EncodeMatchesRow.chkDgt

/-- The decoder follows the opcode map row by row: under a row's operation code, what its format accepts decodes. -/
theorem decode_of_row {row : OpRow} (hrow : row ∈ opcodeTable) {cmd : Command} (hop : cmd.extractLsb' 0 8 = row.op) :
    (∃ i, decode cmd = .ok i) ↔ Accepted row.format cmd := by
  rw [decode, hop]
  fin_cases hrow
  -- the rows in the order of the map, B, M, Z, F, Z, T, C, Z
  iterate 2 exact decodeB_accepted_iff _
  iterate 4 exact decodeM_accepted_iff _
  iterate 6 exact decodeZ_accepted_iff _
  iterate 2 exact decodeF_accepted_iff _
  exact decodeZ_accepted_iff _
  iterate 2 exact decodeT_accepted_iff _
  exact decodeC_accepted_iff _
  iterate 3 exact decodeZ_accepted_iff _

theorem legalWord_iff {cmd : Command} :
    LegalWord cmd ↔ ∃ row ∈ opcodeTable, cmd.extractLsb' 0 8 = row.op ∧ Accepted row.format cmd := by
  simp only [LegalWord, OpRow.pattern, Format.and_mask_eq_iff, extractLsb'_eq_zero_iff, Accepted, and_assoc]

/-- Settles O3: a word that decodes is an encoding, so its operation code has a row, and under that row the decoder's tests
are the map's. -/
theorem legalWordsDecode : Obligations.LegalWordsDecode := by
  intro cmd
  rw [legalWord_iff]
  constructor
  · rintro ⟨i, hi⟩
    obtain ⟨-, rfl⟩ := encode_of_decode hi
    obtain ⟨hop, hrow⟩ := encode_matches_row i
    exact ⟨i.row, hrow, hop, (decode_of_row hrow hop).mp ⟨i, hi⟩⟩
  · rintro ⟨row, hrow, hop, hacc⟩
    exact (decode_of_row hrow hop).mpr hacc

end Sys2Proof.Machine
end

section
/-! SUPPORT. The directive `.movx` (30_encoding.md R92). -/

namespace Sys2Proof.Machine

/-- Settles O60: both ways show `x[j]` and then write it, and they differ in the inputs on the way only. -/
theorem movxIsGetThenSet : Obligations.MovxIsGetThenSet := by
  intro s i j rest hin
  have hmovx := step_of_input hin
  have hget := step_of_input (s := { s with inputs := .getx j :: .setx i (s.getX j) :: rest }) rfl
  have hset := step_of_input
    (s := { s.reveal (.xreg j (s.getX j)) with inputs := .setx i (s.getX j) :: rest }) rfl
  exact ⟨_, _, hget, hset, hmovx⟩

end Sys2Proof.Machine
end

/-! # Bit ranges (40_bitfield.md) -/

section
/-! SUPPORT. What `extract` reads and what `pack` writes, bit by bit and as numbers (40_bitfield.md R100 to R102). -/

namespace Sys2Proof.Machine

section
variable {W : Nat} {w p : BitVec W} {o n v : Nat} {h : InField W o n}

/-! ## extract -/

theorem extract_eq_shift_mod : extract w o n h = (w.toNat >>> o) % 2 ^ n := by
  rw [extract, BitVec.toNat_ushiftRight]

theorem extract_lt : extract w o n h < 2 ^ n := Nat.mod_lt _ (Nat.two_pow_pos n)

theorem testBit_extract (j : Nat) : (extract w o n h).testBit j = (decide (j < n) && w.getLsbD (o + j)) := by
  rw [extract, Nat.testBit_mod_two_pow, BitVec.testBit_toNat, BitVec.getLsbD_ushiftRight]

/-- `extract` depends on the bits of its own range only. -/
theorem extract_congr {w' : BitVec W} (hbits : ∀ j, o ≤ j → j < o + n → w.getLsbD j = w'.getLsbD j) :
    extract w o n h = extract w' o n h := by
  refine Nat.eq_of_testBit_eq fun j => ?_
  rw [testBit_extract, testBit_extract]
  by_cases hj : j < n
  · rw [hbits (o + j) (by omega) (by omega)]
  · rw [decide_eq_false hj, Bool.false_and, Bool.false_and]

/-! ## pack, bit by bit -/

theorem getLsbD_fieldMask {j : Nat} (hj : j < W) :
    (fieldMask W o n).getLsbD j = decide (o ≤ j ∧ j < o + n) := by
  rw [fieldMask, BitVec.getLsbD_shiftLeft, BitVec.getLsbD_ofNat, Nat.testBit_two_pow_sub_one, ← decide_not,
    ← Bool.decide_and, ← Bool.decide_and, ← Bool.decide_and, decide_eq_decide]
  omega

/-- A value that fits in `n` bits packs, to the word of R101's formula. -/
theorem pack_of_lt (hv : v < 2 ^ n) :
    pack w o n v h = .ok ((w &&& ~~~(fieldMask W o n)) ||| (BitVec.ofNat W v <<< o)) :=
  pack_eq_ok.mpr ⟨Nat.le_sub_one_of_lt hv, rfl⟩

theorem lt_of_pack (hp : pack w o n v h = .ok p) : v < 2 ^ n :=
  (Nat.le_sub_one_iff_lt (Nat.two_pow_pos n)).mp (pack_eq_ok.mp hp).1

/-- The packed word: the value's bits inside the range, the backing word's outside it (R101). -/
theorem getLsbD_of_pack (hp : pack w o n v h = .ok p) {j : Nat} (hj : j < W) :
    p.getLsbD j = if o ≤ j ∧ j < o + n then v.testBit (j - o) else w.getLsbD j := by
  have hv := lt_of_pack hp
  obtain ⟨-, rfl⟩ := pack_eq_ok.mp hp
  have hsub : j - o < W := by omega
  rw [BitVec.getLsbD_or, BitVec.getLsbD_and, BitVec.getLsbD_not, getLsbD_fieldMask hj, BitVec.getLsbD_shiftLeft,
    BitVec.getLsbD_ofNat, decide_eq_true hj, decide_eq_true hsub]
  split
  case isTrue hin => simp [hin]
  case isFalse hout =>
    -- a bit of the shifted value outside the range is below `o` or above the value
    have hshifted : (!decide (j < o) && v.testBit (j - o)) = false := by
      by_cases hlow : j < o
      · simp [hlow]
      · rw [Nat.testBit_lt_two_pow (hv.trans_le (Nat.pow_le_pow_right Nat.two_pos (by omega))), Bool.and_false]
    simp [hout, hshifted]

theorem getLsbD_of_pack_outside (hp : pack w o n v h = .ok p) {j : Nat} (hj : j < W) (hout : j < o ∨ o + n ≤ j) :
    p.getLsbD j = w.getLsbD j := by
  rw [getLsbD_of_pack hp hj, if_neg (by omega)]

/-- The bits determine the packed word. -/
theorem eq_of_pack {q : BitVec W} (hp : pack w o n v h = .ok p)
    (hq : ∀ j < W, q.getLsbD j = if o ≤ j ∧ j < o + n then v.testBit (j - o) else w.getLsbD j) : p = q :=
  BitVec.eq_of_getLsbD_eq fun j hj => (getLsbD_of_pack hp hj).trans (hq j hj).symm

/-! ## pack, as a number -/

/-- A value that fits in the range loses no bit when it is shifted to its place. -/
theorem toNat_shifted_value (h : InField W o n) (hv : v < 2 ^ n) : (BitVec.ofNat W v <<< o).toNat = v <<< o := by
  have hplace : v * 2 ^ o < 2 ^ W :=
    calc v * 2 ^ o < 2 ^ n * 2 ^ o := Nat.mul_lt_mul_of_pos_right hv (Nat.two_pow_pos o)
      _ = 2 ^ (o + n) := by rw [Nat.add_comm, Nat.pow_add]
      _ ≤ 2 ^ W := Nat.pow_le_pow_right Nat.two_pos h.2
  have hword : v < 2 ^ W := (Nat.le_mul_of_pos_right v (Nat.two_pow_pos o)).trans_lt hplace
  rw [BitVec.toNat_shiftLeft, BitVec.toNat_ofNat, Nat.mod_eq_of_lt hword, Nat.shiftLeft_eq, Nat.mod_eq_of_lt hplace]

theorem toNat_fieldMask (h : InField W o n) : (fieldMask W o n).toNat = (2 ^ n - 1) * 2 ^ o := by
  rw [fieldMask, toNat_shifted_value h (Nat.sub_one_lt (Nat.two_pow_pos n).ne'), Nat.shiftLeft_eq]

theorem toNat_of_pack (hp : pack w o n v h = .ok p) :
    p.toNat = (w.toNat &&& (2 ^ W - 1 - (2 ^ n - 1) * 2 ^ o)) ||| (v <<< o) := by
  have hv := lt_of_pack hp
  obtain ⟨-, rfl⟩ := pack_eq_ok.mp hp
  rw [BitVec.toNat_or, BitVec.toNat_and, BitVec.toNat_not, toNat_fieldMask h, toNat_shifted_value h hv]

/-! ## The laws of R102 -/

theorem extract_of_pack (hp : pack w o n v h = .ok p) : extract p o n h = v := by
  refine Nat.eq_of_testBit_eq fun j => ?_
  rw [testBit_extract]
  by_cases hj : j < n
  · rw [getLsbD_of_pack hp (by omega), if_pos (by omega), Nat.add_sub_cancel_left, decide_eq_true hj, Bool.true_and]
  · rw [decide_eq_false hj, Bool.false_and,
      Nat.testBit_lt_two_pow ((lt_of_pack hp).trans_le (Nat.pow_le_pow_right Nat.two_pos (by omega)))]

theorem extract_of_pack_disjoint (hp : pack w o n v h = .ok p) {o' n' : Nat} {h' : InField W o' n'}
    (hdisj : o' + n' ≤ o ∨ o + n ≤ o') : extract p o' n' h' = extract w o' n' h' :=
  extract_congr fun _ _ _ => getLsbD_of_pack_outside hp (by omega) (by omega)

theorem pack_extract : pack w o n (extract w o n h) h = .ok w := by
  have hp := pack_of_lt (w := w) (h := h) (extract_lt (w := w) (h := h))
  rw [hp, eq_of_pack (q := w) hp fun j _ => ?_]
  split
  case isTrue hin => rw [testBit_extract, decide_eq_true (by omega), Bool.true_and, Nat.add_sub_cancel' hin.1]
  case isFalse => rfl

theorem extract_whole {h : InField W 0 W} : extract w 0 W h = w.toNat := by
  rw [extract_eq_shift_mod, Nat.shiftRight_zero, Nat.mod_eq_of_lt w.isLt]

theorem pack_whole {h : InField W 0 W} (hv : v < 2 ^ W) : pack w 0 W v h = .ok (BitVec.ofNat W v) := by
  have hp := pack_of_lt (w := w) (h := h) hv
  rw [hp, eq_of_pack (q := BitVec.ofNat W v) hp fun j hj => ?_]
  rw [if_pos (by omega), BitVec.getLsbD_ofNat, decide_eq_true hj, Bool.true_and, Nat.sub_zero]

/-! ## The width of the backing word -/

/-- A word that fits in `W` bits packs to the same number in `W` bits as in its own width. -/
theorem setWidth_of_pack {V : Nat} {x q : BitVec V} {h' : InField V o n} (hx : x.toNat < 2 ^ W)
    (hp : pack (x.setWidth W) o n v h = .ok p) (hq : pack x o n v h' = .ok q) : p.setWidth V = q := by
  refine (eq_of_pack hq fun j hj => ?_).symm
  rw [BitVec.getLsbD_setWidth, decide_eq_true hj, Bool.true_and]
  by_cases hjW : j < W
  · rw [getLsbD_of_pack hp hjW, BitVec.getLsbD_setWidth, decide_eq_true hjW, Bool.true_and]
  · have hzero : x.getLsbD j = false := by
      rw [← BitVec.testBit_toNat]
      exact Nat.testBit_lt_two_pow (hx.trans_le (Nat.pow_le_pow_right Nat.two_pos (by omega)))
    rw [BitVec.getLsbD_of_ge _ _ (by omega), if_neg (by omega), hzero]

end

/-- Settles O9: the value, its bound and its bits. -/
theorem extractIsTheBitRange : Obligations.ExtractIsTheBitRange := fun _ _ _ _ _ =>
  ⟨extract_eq_shift_mod, extract_lt, testBit_extract⟩

/-- Settles O10: the two clauses are the two branches of `pack`. -/
theorem packReplacesTheBitRange : Obligations.PackReplacesTheBitRange := by
  refine fun W w o n v h => ⟨fun hv => pack_eq_error.mpr ⟨rfl, hv⟩, fun hv => ?_⟩
  have hp := pack_of_lt (w := w) (h := h) ((Nat.le_sub_one_iff_lt (Nat.two_pow_pos n)).mp hv)
  exact ⟨_, hp, toNat_of_pack hp, fun _ hj => getLsbD_of_pack hp hj⟩

/-- Settles O11: (a) to (d) compare bits with those of the packed word; (e) is the field that is the whole word. -/
theorem bitFieldLaws : Obligations.BitFieldLaws := by
  refine fun W w o n h => ⟨fun v hv => ?_, pack_extract, ?_⟩
  · have hp := pack_of_lt (w := w) (h := h) hv
    exact ⟨_, hp, extract_of_pack hp, fun _ => getLsbD_of_pack_outside hp, fun _ _ _ => extract_of_pack_disjoint hp⟩
  · rintro rfl rfl
    exact ⟨extract_whole, fun _ => pack_whole⟩

end Sys2Proof.Machine
end

section
/-! SUPPORT. The operations BF.EXT and BF.PACK (40_bitfield.md R103, R104). -/

namespace Sys2Proof.Machine

/-! ## How an instruction ends -/

theorem exec_of_ok {i : Instr} {s u : State} (h : operation i s = .ok u) : exec i s = .next u.succeed := by
  rw [exec_eq_complete, h, complete_ok]

theorem exec_of_error {i : Instr} {s : State} {e : Exc} (h : operation i s = .error e) :
    exec i s = .next (s.raise e) := by
  rw [exec_eq_complete, h, complete_error]

/-! ## The two operations inside their contracts -/

section
variable {W o n : Nat} {s : State}

theorem opExt_of_fits (hc : InField W o n) (hx : s.x0.toNat < 2 ^ W) :
    opExt W o n s = .ok (s.result (s.x0.toNat / 2 ^ o % 2 ^ n)) := by
  rw [opExt, dif_pos hc, check_eq_ok, extract_eq_shift_mod, BitVec.toNat_setWidth, Nat.mod_eq_of_lt hx,
    Nat.shiftRight_eq_div_pow]
  exact ⟨decide_eq_false (Nat.not_le.mpr hx), rfl⟩

/-- BF.PACK works in W bits, and its result is that of `pack` on the whole 64-bit register. -/
theorem opPack_of_fits (hc : InField W o n) (hW : W ≤ 64) (hx : s.x0.toNat < 2 ^ W) (hv : s.x1.toNat ≤ 2 ^ n - 1) :
    opPack W o n s = .ok { s with x2 := (s.x0 &&& ~~~(fieldMask 64 o n)) ||| (s.x1 <<< o) } := by
  have hlt := (Nat.le_sub_one_iff_lt (Nat.two_pow_pos n)).mp hv
  have hp := pack_of_lt (w := s.x0.setWidth W) (h := hc) hlt
  have hq := pack_of_lt (w := s.x0) (h := ⟨hc.1, hc.2.trans hW⟩) hlt
  rw [opPack, dif_pos hc, hp, check_eq_ok]
  refine ⟨decide_eq_false (Nat.not_le.mpr hx), congrArg Except.ok ?_⟩
  rw [State.result, BitVec.ofNat_toNat, setWidth_of_pack hx hp hq, BitVec.ofNat_toNat, BitVec.setWidth_eq]

end

theorem Width.bits_le_64 (W : Width) : W.bits ≤ 64 := by cases W <;> decide

/-- Settles O12: each clause is the end of one path through the operation. -/
theorem bfExtRule : Obligations.BfExtRule := by
  refine fun W o n s => ⟨toNat_encodeB _ W o n, fun hn hon hx => ?_, fun hn hon hx => ?_, fun hc => ?_⟩
  · exact exec_of_ok (i := .bfExt W o n) (opExt_of_fits ⟨hn, hon⟩ hx)
  · exact exec_of_error (i := .bfExt W o n) (opExt_error.mpr (.inr ⟨⟨hn, hon⟩, hx, rfl⟩))
  · exact exec_of_error (i := .bfExt W o n) (opExt_error.mpr (.inl ⟨hc, rfl⟩))

/-- Settles O13: each clause is the end of one path through the operation, in R104's order. -/
theorem bfPackRule : Obligations.BfPackRule := by
  refine fun W o n s => ⟨toNat_encodeB _ W o n, fun hn hon hx hv => ?_, fun hn hon hx hv => ?_, fun hn hon hx => ?_,
    fun hc => ?_⟩
  · exact exec_of_ok (i := .bfPack W o n) (opPack_of_fits ⟨hn, hon⟩ (Width.bits_le_64 W) hx hv)
  · exact exec_of_error (i := .bfPack W o n) (opPack_error.mpr (.inr (.inr ⟨⟨hn, hon⟩, hx, hv, rfl⟩)))
  · exact exec_of_error (i := .bfPack W o n) (opPack_error.mpr (.inr (.inl ⟨⟨hn, hon⟩, hx, rfl⟩)))
  · exact exec_of_error (i := .bfPack W o n) (opPack_error.mpr (.inl ⟨hc, rfl⟩))

end Sys2Proof.Machine
end

/-! # Integer marshalling (41_integer.md) -/

section
/-! SUPPORT. The operations LDI and STI in either byte order (41_integer.md R110 to R114). -/

namespace Sys2Proof.Machine

/-! ## The bytes a load reads and a store writes -/

/-- A weighted sum of a list read from a buffer is the sum over the buffer's own bytes. -/
theorem Memory.sum_readList (m : Memory) (a k : Nat) (weight : Nat → Nat) :
    ∑ i ∈ Finset.range k, ((m.readList a k).getD i 0).toNat * weight i =
      ∑ i ∈ Finset.range k, (m.read (a + i)).toNat * weight i :=
  Finset.sum_congr rfl fun i hi => by rw [Memory.getD_readList m a k i (Finset.mem_range.mp hi)]

theorem leDec_readList (m : Memory) (a k : Nat) :
    leDec (m.readList a k) = ∑ i ∈ Finset.range k, (m.read (a + i)).toNat * 256 ^ i := by
  rw [leDec_eq_sum, Memory.readList_length, Memory.sum_readList]

theorem beDec_readList (m : Memory) (a k : Nat) :
    beDec (m.readList a k) = ∑ i ∈ Finset.range k, (m.read (a + i)).toNat * 256 ^ (k - 1 - i) := by
  rw [beDec_eq_sum, Memory.readList_length, Memory.sum_readList]

theorem Memory.read_writeList_add (m : Memory) (a : Nat) {bs : List Byte} {i : Nat} (h : i < bs.length) :
    (m.writeList a bs).read (a + i) = bs.getD i 0 := by
  rw [Memory.read_writeList, if_pos (by omega), Nat.add_sub_cancel_left]

/-- Reading back the range written gives the list written. -/
theorem Memory.readList_writeList (m : Memory) (a : Nat) (bs : List Byte) :
    (m.writeList a bs).readList a bs.length = bs := by
  refine List.ext_getElem (Memory.readList_length ..) fun i _ hi => ?_
  rw [Memory.getElem_readList, Memory.read_writeList_add m a hi, List.getD_eq_getElem _ _ hi]

/-- A number that fits in k bytes is what its k bytes decode to, in the same order (20_memory.md R55). -/
theorem decInt_encInt (order : ByteOrder) {k v : Nat} (h : v < 2 ^ (8 * k)) : decInt order (encInt order k v) = v := by
  rw [pow_mul] at h
  cases order with
  | big => exact beDec_beEnc h
  | single | little => exact leDec_leEnc h

/-! ## The two operations inside their contracts -/

section
variable {order : ByteOrder} {k off : Nat} {s : State}

theorem opLoad_of_inWindow (hw : s.inWindow off k) :
    opLoad order k off s = .ok (s.result (decInt order (s.fb.readList off k))) := by
  rw [opLoad, check_eq_ok]
  exact ⟨decide_eq_false (not_not.mpr hw), rfl⟩

theorem opStore_of_fits (hw : s.inWindow off k) (hv : s.x1.toNat < 2 ^ (8 * k)) :
    opStore order k off s = .ok { s with fb := s.fb.writeList off (encInt order k s.x1.toNat) } := by
  rw [opStore, check_eq_ok, check_eq_ok]
  exact ⟨decide_eq_false (not_not.mpr hw), decide_eq_false (Nat.not_le.mpr hv), rfl⟩

/-- A store in bounds puts the bytes of the value at their places and keeps every other byte and all other state. -/
theorem exec_store {i : Instr} (hop : operation i s = opStore order k off s) (hw : s.inWindow off k)
    (hv : s.x1.toNat < 2 ^ (8 * k)) {byte : Nat → Nat}
    (hbyte : ∀ j < k, ((encInt order k s.x1.toNat).getD j 0).toNat = byte j) :
    ∃ m, exec i s = .next { s with fb := m, err := 0 } ∧ (∀ j < k, (m.read (off + j)).toNat = byte j) ∧
      ∀ a, a < off ∨ off + k ≤ a → m.read a = s.fb.read a := by
  have hlen := encInt_length order k s.x1.toNat
  refine ⟨s.fb.writeList off (encInt order k s.x1.toNat), exec_of_ok (hop.trans (opStore_of_fits hw hv)),
    fun j hj => ?_, fun a ha => ?_⟩
  · rw [Memory.read_writeList_add _ _ (by omega), hbyte j hj]
  · rcases ha with hlow | hhigh
    · exact Memory.read_writeList_of_lt hlow
    · exact Memory.read_writeList_of_ge (by omega)

/-- A store leaves the window as it is, so the load is in bounds too and decodes the bytes just encoded. -/
theorem exec_store_then_load {store load : Instr} (hstore : operation store s = opStore order k off s)
    (hload : operation load = opLoad order k off) (hw : s.inWindow off k) (hv : s.x1.toNat < 2 ^ (8 * k)) :
    ∃ t u, exec store s = .next t ∧ exec load t = .next u ∧ u.err = 0 ∧ u.x2 = s.x1 := by
  refine ⟨_, _, exec_of_ok (hstore.trans (opStore_of_fits hw hv)),
    exec_of_ok ((congrFun hload _).trans (opLoad_of_inWindow hw)), rfl, ?_⟩
  have hread := Memory.readList_writeList s.fb off (encInt order k s.x1.toNat)
  rw [encInt_length] at hread
  simp only [State.succeed_x2, State.result_x2, State.succeed_fb, hread, decInt_encInt order hv, BitVec.ofNat_toNat,
    BitVec.setWidth_eq]

end

/-- Settles O16: each byte order has the two ends of a load. -/
theorem loadRules : Obligations.LoadRules := by
  refine fun k off s => ⟨toNat_encodeM _ k off, fun hw => ?_, fun hout => ?_, toNat_encodeM _ k off, fun hw => ?_,
    fun hout => ?_⟩
  · rw [← leDec_readList]
    exact exec_of_ok (i := .ldiLe k off) (opLoad_of_inWindow hw)
  · exact exec_of_error (i := .ldiLe k off) (opLoad_error.mpr ⟨hout, rfl⟩)
  · rw [← beDec_readList]
    exact exec_of_ok (i := .ldiBe k off) (opLoad_of_inWindow hw)
  · exact exec_of_error (i := .ldiBe k off) (opLoad_error.mpr ⟨hout, rfl⟩)

/-- Settles O17: each byte order has the three ends of a store, in R112's order. -/
theorem storeRules : Obligations.StoreRules := by
  refine fun k off s => ⟨toNat_encodeM _ k off, fun hw hv => ?_, fun hw hv => ?_, fun hout => ?_,
    toNat_encodeM _ k off, fun hw hv => ?_, fun hw hv => ?_, fun hout => ?_⟩
  · exact exec_store (i := .stiLe k off) (order := .little) rfl hw hv fun _ => leEnc_getD _
  · exact exec_of_error (i := .stiLe k off) (opStore_error.mpr (.inr ⟨hw, hv, rfl⟩))
  · exact exec_of_error (i := .stiLe k off) (opStore_error.mpr (.inl ⟨hout, rfl⟩))
  · exact exec_store (i := .stiBe k off) (order := .big) rfl hw hv fun _ => beEnc_getD _
  · exact exec_of_error (i := .stiBe k off) (opStore_error.mpr (.inr ⟨hw, hv, rfl⟩))
  · exact exec_of_error (i := .stiBe k off) (opStore_error.mpr (.inl ⟨hout, rfl⟩))

/-- Settles O18. -/
theorem storeThenLoadReturnsTheValue : Obligations.StoreThenLoadReturnsTheValue := fun k off _ hw hv =>
  ⟨exec_store_then_load (store := .stiLe k off) (load := .ldiLe k off) (order := .little) rfl rfl hw hv,
    exec_store_then_load (store := .stiBe k off) (load := .ldiBe k off) (order := .big) rfl rfl hw hv⟩

end Sys2Proof.Machine
end

/-! # Record registers and frames (42_record.md) -/

section
/-! SUPPORT. The elements of a record register: how wide they are, and that a record is what its elements read. -/

namespace Sys2Proof

/-- The bytes of one element of a register. -/
def Reg.elemBytes (r : Reg) : Nat := r.elemBits / 8

theorem Reg.elemBits_eq (r : Reg) : r.elemBits = 8 * r.elemBytes := by cases r <;> rfl

theorem Reg.size_eq (r : Reg) : r.size = r.count * r.elemBytes := by cases r <;> rfl

theorem Reg.elemBits_le_64 (r : Reg) : r.elemBits ≤ 64 := by cases r <;> decide

/-- A bit-field group has the one element 0 (10_state.md R34). -/
theorem SubField.group_count (f : SubField) : f.row.group.count = 1 := by cases f <;> rfl

/-- The registers of a list that stands one after another lie between its ends. -/
theorem Reg.within_of_tile {rs : List Reg} {start stop : Nat} (ht : Reg.tile rs start stop = true) :
    start ≤ stop ∧ ∀ r ∈ rs, start ≤ r.offset ∧ r.offset + r.size ≤ stop := by
  induction rs generalizing start with
  | nil =>
    obtain rfl : start = stop := by simpa [Reg.tile] using ht
    simp
  | cons r rest ih =>
    obtain ⟨rfl, hrest⟩ : r.offset = start ∧ Reg.tile rest (start + r.size) stop = true := by
      simpa [Reg.tile] using ht
    obtain ⟨hle, hin⟩ := ih hrest
    refine ⟨by omega, List.forall_mem_cons.mpr ⟨by omega, fun q hq => ?_⟩⟩
    have := hin q hq
    omega

end Sys2Proof

namespace Sys2Proof.Machine

theorem setWidth_64_inj {w : Nat} (hw : w ≤ 64) {v v' : BitVec w} : v.setWidth 64 = v'.setWidth 64 ↔ v = v' := by
  refine ⟨fun h => ?_, fun h => h ▸ rfl⟩
  have hback := congrArg (BitVec.setWidth w) h
  rwa [BitVec.setWidth_setWidth_of_le _ hw, BitVec.setWidth_setWidth_of_le _ hw, BitVec.setWidth_eq,
    BitVec.setWidth_eq] at hback

/-- An array is what its elements are. -/
theorem elements_inj {w n : Nat} {v v' : Vector (BitVec w) n} :
    (∀ i < n, v[i]?.getD 0#w = v'[i]?.getD 0#w) ↔ v = v' := by
  refine ⟨fun h => Vector.ext fun i hi => ?_, fun h _ _ => h ▸ rfl⟩
  have hread := h i hi
  rwa [Vector.getElem?_eq_getElem hi, Vector.getElem?_eq_getElem hi] at hread

/-- Every element is a value of the register's width (10_state.md R30). -/
theorem RecFile.read_lt (c : RecFile) (r : Reg) (i : Nat) : (c.read r i).toNat < 2 ^ r.elemBits := by
  have hlt {w : Nat} (v : BitVec w) : (v.setWidth 64).toNat < 2 ^ w :=
    (BitVec.toNat_setWidth 64 v ▸ Nat.mod_le _ _).trans_lt v.isLt
  cases r <;> exact hlt _

/-- The `A.` registers are what their elements read. -/
theorem RecFile.avatar_ext {c d : RecFile} (h : ∀ r ∈ Reg.avatar, ∀ i < r.count, c.read r i = d.read r i) :
    c.a = d.a := by
  obtain ⟨⟨⟩, _, _, _⟩ := c
  obtain ⟨⟨⟩, _, _, _⟩ := d
  simpa [Reg.avatar, Reg.count, Reg.row, RegKind.count, RecFile.read, elements_inj, setWidth_64_inj] using h

theorem RecFile.wrapper_ext {c d : RecFile} (h : ∀ r ∈ Reg.wrapper, ∀ i < r.count, c.read r i = d.read r i) :
    c.cUnknown = d.cUnknown ∧ c.cChecksum = d.cChecksum := by
  simpa [Reg.wrapper, Reg.count, Reg.row, RegKind.count, RecFile.read, setWidth_64_inj] using h

/-- The `F.` registers are what their elements read. -/
theorem RecFile.friend_ext {c d : RecFile} (h : ∀ r ∈ Reg.friend, ∀ i < r.count, c.read r i = d.read r i) :
    c.f = d.f := by
  obtain ⟨_, _, _, ⟨⟩⟩ := c
  obtain ⟨_, _, _, ⟨⟩⟩ := d
  simpa [Reg.friend, Reg.count, Reg.row, RegKind.count, RecFile.read, elements_inj, setWidth_64_inj] using h

/-- Records with the same `F.` registers are equal when the other registers read the same. -/
theorem RecFile.checksummed_ext {c d : RecFile}
    (h : ∀ r ∈ Reg.avatar ++ Reg.wrapper, ∀ i < r.count, c.read r i = d.read r i) (hf : c.f = d.f) : c = d := by
  obtain ⟨havatar, hwrapper⟩ := List.forall_mem_append.mp h
  have ha := RecFile.avatar_ext havatar
  obtain ⟨hunknown, hchecksum⟩ := RecFile.wrapper_ext hwrapper
  obtain ⟨_, _, _, _⟩ := c
  obtain ⟨_, _, _, _⟩ := d
  rw [RecFile.mk.injEq]
  exact ⟨ha, hunknown, hchecksum, hf⟩

end Sys2Proof.Machine
end

section
/-! SUPPORT. One field of a frame: the bytes that its register encodes to, and that a frame says of a register what its
field's bytes say (42_record.md R120). -/

namespace Sys2Proof.Machine

/-! ## Consecutive pieces of a buffer -/

theorem Memory.readList_add (m : Memory) (a n k : Nat) :
    m.readList a (n + k) = m.readList a n ++ m.readList (a + n) k := by
  simp only [Memory.readList, List.range_add, List.map_append, List.map_map, Function.comp_def, Nat.add_assoc]

/-- A list stands in a buffer when its first piece does and the rest does after it. -/
theorem Memory.readList_eq_append_iff {m : Memory} {a n k : Nat} {bs cs : List Byte} (hn : bs.length = n) :
    m.readList a (n + k) = bs ++ cs ↔ m.readList a n = bs ∧ m.readList (a + n) k = cs := by
  rw [Memory.readList_add]
  exact ⟨fun h => List.append_inj h (by simp [hn]), fun ⟨hb, hc⟩ => by rw [hb, hc]⟩

theorem Memory.readList_eq_iff {m m' : Memory} {a b n : Nat} :
    m.readList a n = m'.readList b n ↔ ∀ i < n, m.read (a + i) = m'.read (b + i) := by
  simp only [Memory.readList, List.map_inj_left, List.mem_range]

/-- A piece of what is read is read by itself. -/
theorem Memory.take_drop_readList (m : Memory) {a k n : Nat} (h : a + k ≤ n) :
    ((m.readList 0 n).drop a).take k = m.readList a k := by
  obtain ⟨j, rfl⟩ := Nat.exists_eq_add_of_le h
  rw [Memory.readList_add, Memory.readList_add, List.append_assoc, List.drop_left' (Memory.readList_length ..),
    List.take_left' (Memory.readList_length ..), Nat.zero_add]

/-- Elements of `k` bytes each stand one after another. -/
theorem Memory.readList_elements_iff {m : Memory} {a k n : Nat} {bytes : Nat → List Byte}
    (hk : ∀ i, (bytes i).length = k) :
    m.readList a (n * k) = (List.range n).flatMap bytes ↔ ∀ i < n, m.readList (a + k * i) k = bytes i := by
  induction n with
  | zero => simp [Memory.readList]
  | succ n ih =>
    have hlen : ((List.range n).flatMap bytes).length = n * k := by simp [List.length_flatMap, hk]
    rw [Nat.succ_mul, List.range_succ, List.flatMap_append, List.flatMap_singleton,
      Memory.readList_eq_append_iff hlen, ih, Nat.forall_lt_succ_right, Nat.mul_comm n k]

/-! ## The integer of some bytes -/

theorem intAt_eq_decInt (order : ByteOrder) (m : Memory) (a k : Nat) :
    intAt order m.read a k = decInt order (m.readList a k) := by
  cases order with
  | big => exact (beDec_readList m a k).symm
  | single | little => exact (leDec_readList m a k).symm

theorem encInt_decInt (order : ByteOrder) (bs : List Byte) : encInt order bs.length (decInt order bs) = bs := by
  cases order with
  | big => exact beEnc_beDec bs
  | single | little => exact leEnc_leDec bs

theorem decInt_lt (order : ByteOrder) (bs : List Byte) : decInt order bs < 2 ^ (8 * bs.length) := by
  rw [pow_mul]
  cases order with
  | big => exact beDec_lt bs
  | single | little => exact leDec_lt bs

/-- The bytes at an address decode to a value exactly when they are its encoding (20_memory.md R55). -/
theorem eq_intAt_iff {order : ByteOrder} {m : Memory} {a k v : Nat} (hv : v < 2 ^ (8 * k)) :
    v = intAt order m.read a k ↔ m.readList a k = encInt order k v := by
  rw [intAt_eq_decInt]
  constructor
  · rintro rfl
    have henc := encInt_decInt order (m.readList a k)
    rw [Memory.readList_length] at henc
    exact henc.symm
  · intro h
    rw [h, decInt_encInt order hv]

/-! ## The bytes of a register -/

/-- The bytes of a register: its elements in order, each in the register's byte order (42_record.md R120). -/
def RecFile.fieldBytes (c : RecFile) (r : Reg) : List Byte :=
  (List.range r.count).flatMap fun i => encInt r.order r.elemBytes (c.read r i).toNat

theorem RecFile.fieldBytes_length (c : RecFile) (r : Reg) : (c.fieldBytes r).length = r.size := by
  simp [RecFile.fieldBytes, List.length_flatMap, Reg.size_eq]

/-- A frame says of a register what it says of each element, whatever the register's kind. -/
theorem fieldHolds_iff_elements {c : RecFile} {r : Reg} {byte : Nat → Byte} {base : Nat} :
    FieldHolds c r byte base ↔ ∀ i < r.count,
      (c.read r i).toNat = intAt r.order byte (base + r.offset + r.elemBytes * i) r.elemBytes := by
  simp only [FieldHolds, Reg.count, Reg.order, Reg.elemBytes, Reg.elemBits]
  cases r.row.kind with
  | integer | group => simp [RegKind.count, RegKind.order, RegKind.elemBits]
  | byteArray => simp [RegKind.count, RegKind.order, RegKind.elemBits, intAt]
  | unitArray => simp [RegKind.count, RegKind.order, RegKind.elemBits, intAt, Finset.sum_range_succ, Nat.mul_comm]

/-- A register holds what a buffer's bytes say exactly when those bytes are its encoding. -/
theorem fieldHolds_iff {c : RecFile} {r : Reg} {m : Memory} {base : Nat} :
    FieldHolds c r m.read base ↔ m.readList (base + r.offset) r.size = c.fieldBytes r := by
  have hlt (i : Nat) : (c.read r i).toNat < 2 ^ (8 * r.elemBytes) := r.elemBits_eq ▸ c.read_lt r i
  rw [fieldHolds_iff_elements, Reg.size_eq, RecFile.fieldBytes,
    Memory.readList_elements_iff fun i => encInt_length r.order r.elemBytes (c.read r i).toNat]
  exact forall₂_congr fun i _ => eq_intAt_iff (hlt i)

/-- One frame says one thing of each register. -/
theorem read_eq_of_fieldHolds {c d : RecFile} {r : Reg} {byte : Nat → Byte} {base : Nat}
    (hc : FieldHolds c r byte base) (hd : FieldHolds d r byte base) : ∀ i < r.count, c.read r i = d.read r i :=
  fun i hi => BitVec.eq_of_toNat_eq
    ((fieldHolds_iff_elements.mp hc i hi).trans (fieldHolds_iff_elements.mp hd i hi).symm)

/-- Registers that stand one after another hold what a buffer's bytes say exactly when those bytes are their encodings
in order. -/
theorem tile_holds_iff {c : RecFile} {m : Memory} {base : Nat} {rs : List Reg} {start stop : Nat}
    (ht : Reg.tile rs start stop = true) : m.readList (base + start) (stop - start) = rs.flatMap c.fieldBytes ↔
      ∀ r ∈ rs, FieldHolds c r m.read base := by
  induction rs generalizing start with
  | nil =>
    obtain rfl : start = stop := by simpa [Reg.tile] using ht
    simp [Memory.readList]
  | cons r rest ih =>
    obtain ⟨rfl, hrest⟩ : r.offset = start ∧ Reg.tile rest (start + r.size) stop = true := by
      simpa [Reg.tile] using ht
    have hle := (Reg.within_of_tile hrest).1
    have hsplit : stop - r.offset = r.size + (stop - (r.offset + r.size)) := by omega
    rw [List.flatMap_cons, List.forall_mem_cons, fieldHolds_iff, ← ih hrest, hsplit,
      Memory.readList_eq_append_iff (c.fieldBytes_length r), Nat.add_assoc]

end Sys2Proof.Machine
end

section
/-! SUPPORT. The three record types: the bytes each encodes to are those of its registers in layout order, so that a
frame is the encoding of a record exactly when every register holds what the frame says (42_record.md R120). -/

namespace Sys2Proof.Machine

/-! ## The bytes of a record -/

section
variable {c : RecFile} {r : Reg}

theorem packInt_eq_fieldBytes {w : Nat} {v : BitVec w} (hcount : r.count = 1) (hwidth : r.elemBits = w)
    (hread : c.read r 0 = v.setWidth 64) : packInt r v = c.fieldBytes r := by
  have hbytes : c.fieldBytes r = encInt r.order r.elemBytes (c.read r 0).toNat := by
    rw [RecFile.fieldBytes, hcount]
    exact List.append_nil _
  rw [hbytes, packInt, Reg.size_eq, hcount, Nat.one_mul, hread,
    BitVec.toNat_setWidth_of_le (hwidth ▸ r.elemBits_le_64)]

theorem toList_eq_map {w n : Nat} (v : Vector (BitVec w) n) : v.toList = (List.range n).map fun i => v[i]?.getD 0 :=
  List.ext_getElem (by simp) fun i hi _ => by
    have hi : i < n := by simpa using hi
    simp [hi]

theorem packBytes_eq_fieldBytes {n : Nat} {v : Vector Byte n} (hkind : r.row.kind = .byteArray n)
    (hread : ∀ i, c.read r i = (v[i]?.getD 0).setWidth 64) : packBytes v = c.fieldBytes r := by
  have hbyte (b : Byte) : encInt .single 1 (b.setWidth 64 : XWord).toNat = [b] := by
    rw [BitVec.toNat_setWidth_of_le (by decide), encInt, leEnc_succ, BitVec.ofNat_toNat, BitVec.setWidth_eq]; rfl
  simp only [packBytes, toList_eq_map, RecFile.fieldBytes, Reg.count, Reg.order, Reg.elemBytes, Reg.elemBits, hkind,
    RegKind.count, RegKind.order, RegKind.elemBits, hread, hbyte, List.map_eq_flatMap]

theorem packUnits_eq_fieldBytes {n : Nat} {v : Vector CodeUnit n} (hkind : r.row.kind = .unitArray n)
    (hread : ∀ i, c.read r i = (v[i]?.getD 0).setWidth 64) : packUnits v = c.fieldBytes r := by
  have hunit (u : CodeUnit) : encInt .little 2 (u.setWidth 64 : XWord).toNat =
      [BitVec.ofNat 8 u.toNat, BitVec.ofNat 8 (u.toNat / 256)] := by
    rw [BitVec.toNat_setWidth_of_le (by decide), encInt, leEnc_succ, leEnc_succ]; rfl
  simp only [packUnits, toList_eq_map, RecFile.fieldBytes, Reg.count, Reg.order, Reg.elemBytes, Reg.elemBits, hkind,
    RegKind.count, RegKind.order, RegKind.elemBits, hread, hunit, List.flatMap_map]

end

/-- Each step takes the next fields of one kind, in layout order. -/
theorem packAvatar_eq (c : RecFile) : packAvatar c.a = Reg.avatar.flatMap c.fieldBytes := by
  unfold packAvatar
  simp only [Reg.avatar, List.append_assoc, List.flatMap_cons, List.flatMap_nil, List.append_nil]
  iterate 6 refine congrArg₂ _ (packInt_eq_fieldBytes rfl rfl rfl) ?_
  refine congrArg₂ _ (packBytes_eq_fieldBytes rfl fun _ => rfl) ?_
  iterate 2 refine congrArg₂ _ (packInt_eq_fieldBytes rfl rfl rfl) ?_
  refine congrArg₂ _ (packUnits_eq_fieldBytes rfl fun _ => rfl) ?_
  iterate 14 refine congrArg₂ _ (packInt_eq_fieldBytes rfl rfl rfl) ?_
  exact packUnits_eq_fieldBytes rfl fun _ => rfl

theorem packChecksummed_eq (c : RecFile) :
    packChecksummed c = (Reg.avatar ++ Reg.wrapper).flatMap c.fieldBytes := by
  rw [packChecksummed, packAvatar_eq, List.append_assoc, List.flatMap_append, Reg.wrapper, List.flatMap_cons,
    List.flatMap_singleton]
  exact congrArg _ (congrArg₂ _ (packInt_eq_fieldBytes rfl rfl rfl) (packInt_eq_fieldBytes rfl rfl rfl))

theorem packFriendHead_eq (c : RecFile) : packFriendHead c.f = Reg.friend.dropLast.flatMap c.fieldBytes := by
  unfold packFriendHead
  simp only [Reg.friend, List.dropLast, List.append_assoc, List.flatMap_cons, List.flatMap_nil, List.append_nil]
  iterate 2 refine congrArg₂ _ (packInt_eq_fieldBytes rfl rfl rfl) ?_
  iterate 2 refine congrArg₂ _ (packBytes_eq_fieldBytes rfl fun _ => rfl) ?_
  refine congrArg₂ _ (packUnits_eq_fieldBytes rfl fun _ => rfl) ?_
  refine congrArg₂ _ (packBytes_eq_fieldBytes rfl fun _ => rfl) ?_
  iterate 5 refine congrArg₂ _ (packInt_eq_fieldBytes rfl rfl rfl) ?_
  refine congrArg₂ _ (packBytes_eq_fieldBytes rfl fun _ => rfl) ?_
  refine congrArg₂ _ (packInt_eq_fieldBytes rfl rfl rfl) ?_
  iterate 3 refine congrArg₂ _ (packUnits_eq_fieldBytes rfl fun _ => rfl) ?_
  exact packBytes_eq_fieldBytes rfl fun _ => rfl

/-! ## A frame is the encoding of the record it says -/

section
variable {c : RecFile} {m : Memory}

theorem readList_eq_packAvatar_iff {base : Nat} :
    m.readList base avatarSize = packAvatar c.a ↔ ∀ r ∈ Reg.avatar, FieldHolds c r m.read base := by
  rw [packAvatar_eq, ← tile_holds_iff avatar_tiles, Nat.add_zero, Nat.sub_zero]

theorem readList_eq_packChecksummed_iff {base : Nat} : m.readList base checksummedSize = packChecksummed c ↔
    ∀ r ∈ Reg.avatar ++ Reg.wrapper, FieldHolds c r m.read base := by
  rw [packChecksummed_eq, ← tile_holds_iff checksummed_tiles, Nat.add_zero, Nat.sub_zero]

/-- The embedded record stands at 0xBB, between the first 17 `F.` registers and the last one (30_encoding.md R76). -/
theorem readList_eq_packFriend_iff : m.readList 0 friendSize = packFriend c ↔
    (∀ r ∈ Reg.friend, FieldHolds c r m.read 0) ∧
      ∀ r ∈ Reg.avatar ++ Reg.wrapper, FieldHolds c r m.read embedOffset := by
  have hlast : packBytes c.f.pad11B = [Reg.fPad11B].flatMap c.fieldBytes := by
    rw [List.flatMap_singleton]
    exact packBytes_eq_fieldBytes rfl fun _ => rfl
  have hsum : (packFriendHead c.f ++ packChecksummed c).length = embedOffset + checksummedSize := by
    rw [List.length_append, packFriendHead_length, packChecksummed_length]
  have hfriend : (∀ r ∈ Reg.friend, FieldHolds c r m.read 0) ↔
      (∀ r ∈ Reg.friend.dropLast, FieldHolds c r m.read 0) ∧ ∀ r ∈ [Reg.fPad11B], FieldHolds c r m.read 0 :=
    List.forall_mem_append (l₁ := Reg.friend.dropLast)
  rw [packFriend, show friendSize = embedOffset + checksummedSize + 5 from rfl, Memory.readList_eq_append_iff hsum,
    Memory.readList_eq_append_iff (packFriendHead_length c.f), packFriendHead_eq, hlast, Nat.zero_add, Nat.zero_add,
    readList_eq_packChecksummed_iff, hfriend, ← tile_holds_iff friend_tiles.1,
    ← tile_holds_iff friend_tiles.2, Nat.zero_add]
  exact and_right_comm

end

/-! ## The record read from a frame -/

section
variable {c : RecFile} {r : Reg} {m : Memory} {base n : Nat}

theorem fieldHolds_of_unpackInt {w : Nat} (hin : base + r.offset + r.size ≤ n) (hcount : r.count = 1)
    (hwidth : r.elemBits = w)
    (hread : c.read r 0 = (unpackInt (w := w) (m.readList 0 n) base r).setWidth 64) :
    FieldHolds c r m.read base := by
  have hsize : r.size = r.elemBytes := by rw [Reg.size_eq, hcount, Nat.one_mul]
  have hlt : decInt r.order (m.readList (base + r.offset) r.size) < 2 ^ w := by
    have hbytes := decInt_lt r.order (m.readList (base + r.offset) r.size)
    rwa [Memory.readList_length, hsize, ← r.elemBits_eq, hwidth, ← hsize] at hbytes
  rw [fieldHolds_iff_elements, hcount]
  intro i hi
  obtain rfl := Nat.lt_one_iff.mp hi
  rw [hread, unpackInt, Memory.take_drop_readList m hin, BitVec.toNat_setWidth_of_le (hwidth ▸ r.elemBits_le_64),
    BitVec.toNat_ofNat, Nat.mod_eq_of_lt hlt, intAt_eq_decInt, hsize, Nat.mul_zero, Nat.add_zero]

theorem fieldHolds_of_unpackBytes {k : Nat} (hin : base + r.offset + r.size ≤ n) (hkind : r.row.kind = .byteArray k)
    (hread : ∀ i, c.read r i = ((unpackBytes (n := k) (m.readList 0 n) base r)[i]?.getD 0).setWidth 64) :
    FieldHolds c r m.read base := by
  have hsize : r.size = k := by simp only [Reg.size, hkind, RegKind.size]
  simp only [FieldHolds, hkind]
  intro i hi
  rw [hread, unpackBytes, Vector.getElem?_eq_getElem hi, getElem_tabulate, Option.getD_some,
    Memory.getD_readList _ _ _ _ (by omega), Nat.zero_add, BitVec.toNat_setWidth_of_le (by decide)]

theorem fieldHolds_of_unpackUnits {k : Nat} (hin : base + r.offset + r.size ≤ n) (hkind : r.row.kind = .unitArray k)
    (hread : ∀ i, c.read r i = ((unpackUnits (n := k) (m.readList 0 n) base r)[i]?.getD 0).setWidth 64) :
    FieldHolds c r m.read base := by
  have hsize : r.size = 2 * k := by simp only [Reg.size, hkind, RegKind.size]
  simp only [FieldHolds, hkind]
  intro i hi
  rw [hread, unpackUnits, Vector.getElem?_eq_getElem hi, getElem_tabulate, Option.getD_some,
    Memory.getD_readList _ _ _ _ (by omega), Memory.getD_readList _ _ _ _ (by omega), Nat.zero_add,
    Nat.zero_add, BitVec.toNat_setWidth_of_le (by decide), BitVec.toNat_ofNat, Nat.mod_eq_of_lt (by omega)]

theorem fieldHolds_of_unpackAvatar (hin : base + avatarSize ≤ n) (ha : c.a = unpackAvatar (m.readList 0 n) base) :
    ∀ r ∈ Reg.avatar, FieldHolds c r m.read base := by
  intro r hr
  have hfit : base + r.offset + r.size ≤ n := by
    have := (Reg.within_of_tile avatar_tiles).2 r hr
    omega
  obtain ⟨_, _, _, _⟩ := c
  subst ha
  cases r with
  | aMac => exact fieldHolds_of_unpackBytes hfit rfl fun _ => rfl
  | aName | aAuthorName => exact fieldHolds_of_unpackUnits hfit rfl fun _ => rfl
  | aMagic | aOptions | aPosition | aOrigin | aSystemId | aRecordId | aPad | aDetails | aHeight | aWidth | aFaceStyle
  | aFaceDetail | aHairStyle | aHairDetail | aEye | aEyebrow | aNose | aMouth | aMustache | aBeard | aGlasses
  | aMole => exact fieldHolds_of_unpackInt hfit rfl rfl rfl
  | _ => simp [Reg.avatar] at hr

theorem fieldHolds_of_unpackChecksummed (hin : base + checksummedSize ≤ n)
    (ha : c.a = unpackAvatar (m.readList 0 n) base) (hunknown : c.cUnknown = unpackInt (m.readList 0 n) base .cUnknown)
    (hchecksum : c.cChecksum = unpackInt (m.readList 0 n) base .cChecksum) :
    ∀ r ∈ Reg.avatar ++ Reg.wrapper, FieldHolds c r m.read base := by
  have hfit (r : Reg) (hr : r ∈ Reg.avatar ++ Reg.wrapper) : base + r.offset + r.size ≤ n := by
    have := (Reg.within_of_tile checksummed_tiles).2 r hr
    omega
  rw [List.forall_mem_append, Reg.wrapper, List.forall_mem_cons, List.forall_mem_singleton]
  exact ⟨fieldHolds_of_unpackAvatar (Nat.le_trans (Nat.add_le_add_left (by decide) base) hin) ha,
    fieldHolds_of_unpackInt (hfit _ (by decide)) rfl rfl (congrArg (BitVec.setWidth 64) hunknown),
    fieldHolds_of_unpackInt (hfit _ (by decide)) rfl rfl (congrArg (BitVec.setWidth 64) hchecksum)⟩

theorem fieldHolds_of_unpackFriend (hf : c.f = unpackFriend (m.readList 0 friendSize)) :
    ∀ r ∈ Reg.friend, FieldHolds c r m.read 0 := by
  intro r hr
  have hfit : 0 + r.offset + r.size ≤ friendSize := by
    have hall : ∀ q ∈ Reg.friend, 0 + q.offset + q.size ≤ friendSize := by decide
    exact hall r hr
  obtain ⟨_, _, _, _⟩ := c
  subst hf
  cases r with
  | fPad08 | fOpaque | fPad50 | fPad5D | fPadB8 | fPad11B => exact fieldHolds_of_unpackBytes hfit rfl fun _ => rfl
  | fComment | fHexId | fSerial | fDisplayName => exact fieldHolds_of_unpackUnits hfit rfl fun _ => rfl
  | fMagic | fMagicNumber | fRegion | fCountry | fArea | fLanguage | fPlatform | fLocalSeed =>
    exact fieldHolds_of_unpackInt hfit rfl rfl rfl
  | _ => simp [Reg.friend] at hr

end

end Sys2Proof.Machine
end

section
/-! SUPPORT. The decode and encode operations (42_record.md R121 to R128) and the laws of the three codecs (R132). -/

namespace Sys2Proof.Machine

/-! ## A decode and an encode -/

section
variable {size : Nat} {load : RecFile → List Byte → RecFile} {bytes : RecFile → List Byte} {s : State}

theorem exec_decode {dec : Instr} (hdec : operation dec = opDecode size load) (hlen : s.flen.toNat = size) :
    exec dec s = .next { s with record := load s.record (s.fb.readList 0 size), err := 0 } := by
  refine exec_of_ok (u := { s with record := load s.record (s.fb.readList 0 size) }) ?_
  rw [hdec, opDecode, check_eq_ok]
  exact ⟨decide_eq_false (not_not.mpr hlen), rfl⟩

/-- A decode of a frame of another size takes SizeError (42_record.md R121). -/
theorem exec_decode_size {dec : Instr} (hdec : operation dec = opDecode size load) (hlen : s.flen.toNat ≠ size) :
    exec dec s = .next { s with err := 1, eflags := s.eflags ||| 0x02 } :=
  exec_of_error ((congrFun hdec s).trans (opDecode_error.mpr ⟨hlen, rfl⟩))

/-- What makes a decode and an encode of frames of one size inverse to each other. -/
structure FrameCodec (size : Nat) (load : RecFile → List Byte → RecFile) (bytes : RecFile → List Byte) : Prop where
  length : ∀ c, (bytes c).length = size
  size_lt : size < 2 ^ 16
  bytes_load : ∀ (c : RecFile) (m : Memory), bytes (load c (m.readList 0 size)) = m.readList 0 size
  load_bytes : ∀ (c : RecFile) (m : Memory), m.readList 0 size = bytes c → load c (m.readList 0 size) = c

/-- An encode puts the record's bytes in place of the frame and keeps every byte beyond them (42_record.md R122). -/
theorem FrameCodec.exec_encode (hcodec : FrameCodec size load bytes) {enc : Instr}
    (henc : operation enc = opEncode size bytes) (s : State) :
    ∃ m, exec enc s = .next { s with fb := m, flen := BitVec.ofNat 16 size, err := 0 } ∧
      m.readList 0 size = bytes s.record ∧ ∀ a, size ≤ a → m.read a = s.fb.read a := by
  have hread := Memory.readList_writeList s.fb 0 (bytes s.record)
  have hsize := hcodec.length s.record
  rw [hsize] at hread
  exact ⟨_, exec_of_ok (congrFun henc s), hread, fun a ha => Memory.read_writeList_of_ge (by omega)⟩

/-- The bytes the encode writes are those the decode has read. -/
theorem FrameCodec.decode_then_encode (hcodec : FrameCodec size load bytes) {dec enc : Instr}
    (hdec : operation dec = opDecode size load) (henc : operation enc = opEncode size bytes)
    (hlen : s.flen.toNat = size) :
    ∃ t u, exec dec s = .next t ∧ exec enc t = .next u ∧ u.flen = s.flen ∧ ∀ a, u.fb.read a = s.fb.read a := by
  obtain ⟨m, hexec, hframe, hbeyond⟩ :=
    hcodec.exec_encode henc { s with record := load s.record (s.fb.readList 0 size), err := 0 }
  refine ⟨_, _, exec_decode hdec hlen, hexec, ?_, fun a => ?_⟩
  · rw [← hlen, BitVec.ofNat_toNat, BitVec.setWidth_eq]
  · by_cases ha : a < size
    · simpa only [Nat.zero_add] using Memory.readList_eq_iff.mp (hframe.trans (hcodec.bytes_load s.record s.fb)) a ha
    · exact hbeyond a (Nat.le_of_not_lt ha)

/-- The frame the encode leaves has the decode's size, and says the record it was made of. -/
theorem FrameCodec.encode_then_decode (hcodec : FrameCodec size load bytes) {dec enc : Instr}
    (hdec : operation dec = opDecode size load) (henc : operation enc = opEncode size bytes) :
    ∃ t u, exec enc s = .next t ∧ exec dec t = .next u ∧ u.err = 0 ∧ u.record = s.record := by
  obtain ⟨m, hexec, hframe, -⟩ := hcodec.exec_encode henc s
  have hlen : (BitVec.ofNat 16 size).toNat = size := BitVec.toNat_ofNat .. ▸ Nat.mod_eq_of_lt hcodec.size_lt
  exact ⟨_, _, hexec, exec_decode hdec hlen, rfl, hcodec.load_bytes s.record m hframe⟩

end

/-! ## The three codecs -/

section
variable (c : RecFile) (m : Memory)

theorem fieldHolds_loadAvatar :
    ∀ r ∈ Reg.avatar, FieldHolds (c.loadAvatar (m.readList 0 avatarSize)) r m.read 0 :=
  fieldHolds_of_unpackAvatar (Nat.zero_add _).le rfl

theorem fieldHolds_loadChecksummed : ∀ r ∈ Reg.avatar ++ Reg.wrapper,
    FieldHolds (c.loadChecksummed (m.readList 0 checksummedSize) 0) r m.read 0 :=
  fieldHolds_of_unpackChecksummed (Nat.zero_add _).le rfl rfl rfl

theorem fieldHolds_loadFriend :
    (∀ r ∈ Reg.friend, FieldHolds (c.loadFriend (m.readList 0 friendSize)) r m.read 0) ∧
      ∀ r ∈ Reg.avatar ++ Reg.wrapper, FieldHolds (c.loadFriend (m.readList 0 friendSize)) r m.read embedOffset :=
  ⟨fieldHolds_of_unpackFriend rfl, fieldHolds_of_unpackChecksummed (by decide) rfl rfl rfl⟩

end

theorem avatarCodec : FrameCodec avatarSize RecFile.loadAvatar (fun c => packAvatar c.a) where
  length c := packAvatar_length c.a
  size_lt := by decide
  bytes_load c m := (readList_eq_packAvatar_iff.mpr (fieldHolds_loadAvatar c m)).symm
  load_bytes c m h := by
    have hsaid := readList_eq_packAvatar_iff.mp h
    have ha : (c.loadAvatar (m.readList 0 avatarSize)).a = c.a :=
      RecFile.avatar_ext fun r hr => read_eq_of_fieldHolds (fieldHolds_loadAvatar c m r hr) (hsaid r hr)
    exact congrArg (fun a => { c with a := a }) ha

theorem checksummedCodec :
    FrameCodec checksummedSize (fun c bs => c.loadChecksummed bs 0) packChecksummed where
  length := packChecksummed_length
  size_lt := by decide
  bytes_load c m := (readList_eq_packChecksummed_iff.mpr (fieldHolds_loadChecksummed c m)).symm
  load_bytes c m h := by
    have hsaid := readList_eq_packChecksummed_iff.mp h
    exact RecFile.checksummed_ext
      (fun r hr => read_eq_of_fieldHolds (fieldHolds_loadChecksummed c m r hr) (hsaid r hr)) rfl

theorem friendCodec : FrameCodec friendSize RecFile.loadFriend packFriend where
  length := packFriend_length
  size_lt := by decide
  bytes_load c m := (readList_eq_packFriend_iff.mpr (fieldHolds_loadFriend c m)).symm
  load_bytes c m h := by
    obtain ⟨hfriend, hembedded⟩ := readList_eq_packFriend_iff.mp h
    obtain ⟨hfriend', hembedded'⟩ := fieldHolds_loadFriend c m
    exact RecFile.checksummed_ext (fun r hr => read_eq_of_fieldHolds (hembedded' r hr) (hembedded r hr))
      (RecFile.friend_ext fun r hr => read_eq_of_fieldHolds (hfriend' r hr) (hfriend r hr))

/-! ## The obligations -/

/-- Settles O25: each of the three codecs encodes what it has decoded to the same bytes. -/
theorem decodeThenEncodeKeepsTheFrame : Obligations.DecodeThenEncodeKeepsTheFrame := fun _ =>
  ⟨avatarCodec.decode_then_encode (dec := .avaDec) (enc := .avaEnc) rfl rfl,
    checksummedCodec.decode_then_encode (dec := .cavDec) (enc := .cavEnc) rfl rfl,
    friendCodec.decode_then_encode (dec := .frdDec) (enc := .frdEnc) rfl rfl⟩

/-- Settles O26: each of the three codecs decodes what it has encoded to the same record. -/
theorem encodeThenDecodeKeepsTheRecord : Obligations.EncodeThenDecodeKeepsTheRecord := fun _ =>
  ⟨avatarCodec.encode_then_decode (dec := .avaDec) (enc := .avaEnc) rfl rfl,
    checksummedCodec.encode_then_decode (dec := .cavDec) (enc := .cavEnc) rfl rfl,
    friendCodec.encode_then_decode (dec := .frdDec) (enc := .frdEnc) rfl rfl⟩

/-- Settles O19: the two ends of a decode. -/
theorem avaDecRule : Obligations.AvaDecRule := fun s =>
  ⟨rfl, fun hlen => ⟨_, exec_decode (dec := .avaDec) rfl hlen, fieldHolds_loadAvatar s.record s.fb⟩,
    exec_decode_size (dec := .avaDec) rfl⟩

/-- Settles O20: the two ends of a decode. -/
theorem cavDecRule : Obligations.CavDecRule := fun s =>
  have hdec : operation .cavDec = opDecode checksummedSize fun c bs => c.loadChecksummed bs 0 := rfl
  ⟨rfl, fun hlen => ⟨_, exec_decode hdec hlen, rfl, fieldHolds_loadChecksummed s.record s.fb⟩, exec_decode_size hdec⟩

/-- Settles O21: the two ends of a decode. -/
theorem frdDecRule : Obligations.FrdDecRule := fun s =>
  ⟨rfl, fun hlen => ⟨_, exec_decode (dec := .frdDec) rfl hlen, fieldHolds_loadFriend s.record s.fb⟩,
    exec_decode_size (dec := .frdDec) rfl⟩

/-- Settles O22: bytes that are the encoding say every register. -/
theorem avaEncRule : Obligations.AvaEncRule := fun s => by
  obtain ⟨m, hexec, hframe, hbeyond⟩ := avatarCodec.exec_encode (enc := .avaEnc) rfl s
  exact ⟨rfl, m, hexec, readList_eq_packAvatar_iff.mp hframe, hbeyond⟩

/-- Settles O23, as O22. -/
theorem cavEncRule : Obligations.CavEncRule := fun s => by
  obtain ⟨m, hexec, hframe, hbeyond⟩ := checksummedCodec.exec_encode (enc := .cavEnc) rfl s
  exact ⟨rfl, m, hexec, readList_eq_packChecksummed_iff.mp hframe, hbeyond⟩

/-- Settles O24, as O22, the embedded record standing at 0xBB. -/
theorem frdEncRule : Obligations.FrdEncRule := fun s => by
  obtain ⟨m, hexec, hframe, hbeyond⟩ := friendCodec.exec_encode (enc := .frdEnc) rfl s
  obtain ⟨hfriend, hembedded⟩ := readList_eq_packFriend_iff.mp hframe
  exact ⟨rfl, m, hexec, hfriend, hembedded, hbeyond⟩

/-- Settles O27: what a frame says of the registers of an embedded record fixes the bytes there. -/
theorem encodingsNest : Obligations.EncodingsNest := fun s => by
  obtain ⟨ma, hava, hframea, -⟩ := avatarCodec.exec_encode (enc := .avaEnc) rfl s
  obtain ⟨mc, hcav, hframec, -⟩ := checksummedCodec.exec_encode (enc := .cavEnc) rfl s
  obtain ⟨mf, hfrd, hframef, -⟩ := friendCodec.exec_encode (enc := .frdEnc) rfl s
  have hembedded := readList_eq_packChecksummed_iff.mpr (readList_eq_packFriend_iff.mp hframef).2
  have havatar := readList_eq_packAvatar_iff.mpr
    (List.forall_mem_append.mp (readList_eq_packChecksummed_iff.mp hframec)).1
  refine ⟨_, _, _, hava, hcav, hfrd, fun i hi => ?_, fun i hi => ?_⟩
  · exact (Memory.readList_eq_iff.mp (hembedded.trans hframec.symm) i hi).trans (by rw [Nat.zero_add])
  · simpa only [Nat.zero_add] using Memory.readList_eq_iff.mp (havatar.trans hframea.symm) i hi

end Sys2Proof.Machine
end

section
/-! SUPPORT. Access to one field (42_record.md R129, R130), and the record of zeros with its checksum (R131). -/

namespace Sys2Proof.Machine

/-! ## The backing word of a sub-field -/

section
variable {c c' : RecFile} {f : SubField} {r : Reg} {i : Nat} {v : XWord}

theorem toNat_groupWord : (c.groupWord f).toNat = (c.read f.row.group 0).toNat := by
  rw [RecFile.groupWord, BitVec.toNat_setWidth, Nat.mod_eq_of_lt (c.read_lt f.row.group 0)]

/-- The register of a group reads as its backing word, bit by bit. -/
theorem getLsbD_read_group (j : Nat) : (c.read f.row.group 0).getLsbD j = (c.groupWord f).getLsbD j := by
  rw [← BitVec.testBit_toNat, ← toNat_groupWord, BitVec.testBit_toNat]

theorem groupWord_write (w : BitVec f.row.group.elemBits) :
    (c.write f.row.group 0 (w.setWidth 64)).groupWord f = w := by
  have hlt : (w.setWidth 64).toNat < 2 ^ f.row.group.elemBits :=
    BitVec.toNat_setWidth_of_le f.row.group.elemBits_le_64 ▸ w.isLt
  rw [RecFile.groupWord, RecFile.read_write_same _ _ _ _ (f.group_count ▸ Nat.one_pos) hlt,
    BitVec.setWidth_setWidth_of_le _ f.row.group.elemBits_le_64, BitVec.setWidth_eq]

/-! ## Reading and writing a field -/

theorem getField_sub : c.getField (.sub f) i =
    BitVec.ofNat 64 ((c.read f.row.group 0).toNat / 2 ^ f.row.o % 2 ^ f.row.n) := by
  rw [RecFile.getField, extract_eq_shift_mod, toNat_groupWord, Nat.shiftRight_eq_div_pow]

theorem setField_reg_eq_ok :
    c.setField (.reg r) i v = .ok c' ↔ v.toNat < 2 ^ r.elemBits ∧ c.write r i v = c' := by
  rw [RecFile.setField]
  split
  case isTrue hv => simp [hv]
  case isFalse hv => simp [Nat.not_le.mp hv]

theorem setField_sub_eq_ok : c.setField (.sub f) i v = .ok c' ↔
    ∃ w, pack (c.groupWord f) f.row.o f.row.n v.toNat f.inField = .ok w ∧
      c.write f.row.group 0 (w.setWidth 64) = c' := by
  rw [RecFile.setField]
  cases pack (c.groupWord f) f.row.o f.row.n v.toNat f.inField <;> simp

/-- A field reads as the value last written to it (42_record.md R129, R130). -/
theorem getField_of_setField {g : FieldId} (hi : i < g.count) (h : c.setField g i v = .ok c') :
    c'.getField g i = v := by
  cases g with
  | reg r =>
    obtain ⟨hv, rfl⟩ := setField_reg_eq_ok.mp h
    exact c.read_write_same r i v hi hv
  | sub f =>
    obtain ⟨w, hp, rfl⟩ := setField_sub_eq_ok.mp h
    rw [RecFile.getField, groupWord_write, extract_of_pack hp, BitVec.ofNat_toNat, BitVec.setWidth_eq]

end

/-! ## FLD.GET and FLD.SET -/

section
variable {g : FieldId} {idx : BitVec 5} {s : State}

theorem exec_fldGet (hi : idx.toNat < g.count) :
    exec (.fldGet g idx) s = .next { s with x2 := s.record.getField g idx.toNat, err := 0 } := by
  refine exec_of_ok (i := .fldGet g idx) (u := { s with x2 := s.record.getField g idx.toNat }) ?_
  rw [operation, opGet, check_eq_ok]
  exact ⟨decide_eq_false (Nat.not_le.mpr hi), rfl⟩

theorem exec_fldSet {c : RecFile} (hi : idx.toNat < g.count) (hc : s.record.setField g idx.toNat s.x1 = .ok c) :
    exec (.fldSet g idx) s = .next { s with record := c, err := 0 } := by
  refine exec_of_ok (i := .fldSet g idx) (u := { s with record := c }) ?_
  rw [operation, opSet, check_eq_ok, hc]
  exact ⟨decide_eq_false (Nat.not_le.mpr hi), rfl⟩

end

/-- Settles O28: a register, a sub-field, and an index beyond the count. -/
theorem fldGetRule : Obligations.FldGetRule := by
  refine fun idx s => ⟨fun g => toNat_encodeF _ g idx, fun r hi => exec_fldGet (g := .reg r) hi, fun f hi => ?_,
    fun g hi => ?_⟩
  · rw [← getField_sub (i := idx.toNat)]
    exact exec_fldGet (g := .sub f) (hi ▸ Nat.one_pos)
  · exact exec_of_error (i := .fldGet g idx) (opGet_error.mpr ⟨hi, rfl⟩)

/-- FLD.SET of a register writes that element and no other (42_record.md R130). -/
theorem exec_fldSet_reg {r : Reg} {idx : BitVec 5} {s : State} (hi : idx.toNat < r.count)
    (hv : s.x1.toNat < 2 ^ r.elemBits) :
    ∃ c, exec (.fldSet (.reg r) idx) s = .next { s with record := c, err := 0 } ∧ c.read r idx.toNat = s.x1 ∧
      ∀ (r' : Reg) (i : Nat), i < r'.count → r' ≠ r ∨ i ≠ idx.toNat → c.read r' i = s.record.read r' i := by
  refine ⟨_, exec_fldSet (g := .reg r) hi (setField_reg_eq_ok.mpr ⟨hv, rfl⟩),
    RecFile.read_write_same _ _ _ _ hi hv, fun r' i hi' hother => ?_⟩
  by_cases hr : r' = r
  · subst hr
    have hne : i ≠ idx.toNat := hother.resolve_left fun h => h rfl
    exact RecFile.read_write_index _ _ _ _ _ hne.symm hi' hi
  · exact RecFile.read_write_other _ _ _ _ _ _ hr

/-- FLD.SET of a sub-field writes its bits of the backing word and no others (42_record.md R130). -/
theorem exec_fldSet_sub {f : SubField} {idx : BitVec 5} {s : State} (hi : idx.toNat = 0)
    (hv : s.x1.toNat < 2 ^ f.row.n) :
    ∃ c, exec (.fldSet (.sub f) idx) s = .next { s with record := c, err := 0 } ∧
      (∀ j < f.row.n, (c.read f.row.group 0).getLsbD (f.row.o + j) = s.x1.getLsbD j) ∧
      (∀ j, j < f.row.o ∨ f.row.o + f.row.n ≤ j →
        (c.read f.row.group 0).getLsbD j = (s.record.read f.row.group 0).getLsbD j) ∧
      ∀ (r' : Reg) (i : Nat), i < r'.count → r' ≠ f.row.group → c.read r' i = s.record.read r' i := by
  have hfits := f.inField.2
  have hp := pack_of_lt (w := s.record.groupWord f) (h := f.inField) hv
  refine ⟨_, exec_fldSet (g := .sub f) (hi ▸ Nat.one_pos) (setField_sub_eq_ok.mpr ⟨_, hp, rfl⟩), fun j hj => ?_,
    fun j hout => ?_, fun r' i _ hr => RecFile.read_write_other _ _ _ _ _ _ hr⟩
  · rw [getLsbD_read_group, groupWord_write, getLsbD_of_pack hp (by omega), if_pos (by omega), Nat.add_sub_cancel_left,
      BitVec.testBit_toNat]
  · rw [getLsbD_read_group, groupWord_write, getLsbD_read_group]
    by_cases hj : j < f.row.group.elemBits
    · exact getLsbD_of_pack_outside hp hj hout
    · rw [BitVec.getLsbD_of_ge _ _ (Nat.le_of_not_lt hj), BitVec.getLsbD_of_ge _ _ (Nat.le_of_not_lt hj)]

/-- Settles O29: a register, a sub-field, and the two exceptions. -/
theorem fldSetRule : Obligations.FldSetRule := fun idx _ =>
  ⟨fun g => toNat_encodeF _ g idx, fun _ => exec_fldSet_reg, fun _ => exec_fldSet_sub,
    fun g hi hv => exec_of_error (i := .fldSet g idx) (opSet_error.mpr (.inr ⟨hi, hv, rfl⟩)),
    fun g hi => exec_of_error (i := .fldSet g idx) (opSet_error.mpr (.inl ⟨hi, rfl⟩))⟩

/-- Settles O30: a FLD.SET that ends with status 0 has written the field. -/
theorem fldSetThenGet : Obligations.FldSetThenGet := by
  intro g idx s t h herr
  rcases exec_cases h with ⟨u, hu, rfl⟩ | ⟨e, -, rfl⟩
  · obtain ⟨hi, c, hc, rfl⟩ := opSet_ok hu
    exact ⟨_, exec_fldGet hi, rfl, getField_of_setField hi hc, rfl⟩
  · exact absurd herr e.code_ne_ok

/-! ## REC.ZERO -/

/-- The checksum fixup leaves the record of zeros as it is. -/
theorem RecFile.fix_zero : RecFile.zero.fix = RecFile.zero := by
  rw [RecFile.fix, RecFile.cavCrc_zero]
  rfl

/-- Settles O31: the fixup of the record of zeros stores the zero it already holds. -/
theorem recZeroRule : Obligations.RecZeroRule := by
  refine fun s => ⟨rfl, RecFile.zero, ?_, RecFile.read_zero⟩
  refine exec_of_ok (i := .recZero) (u := { s with crc := 0, record := RecFile.zero }) ?_
  rw [operation, opZero, opFix, RecFile.fix_zero, RecFile.cavCrc_zero]

end Sys2Proof.Machine
end

/-! # The text view (43_text.md) -/

section
/-! SUPPORT. The string of a list of code units and the units of a string (43_text.md R140, R141), and the laws between
them (R144). -/

namespace Sys2Proof.Machine

section
variable {u : List CodeUnit} {s : List Byte} {c i : Nat}

/-! ## Decoding -/

theorem textDec_cons_zero (u : List CodeUnit) : textDec (0 :: u) = [] := rfl

theorem textDec_cons_of_ne {v : CodeUnit} (hv : v ≠ 0) (u : List CodeUnit) :
    textDec (v :: u) = v.setWidth 8 :: textDec u := by
  have htest : (v != 0) = true := bne_iff_ne.mpr hv
  rw [textDec, List.takeWhile_cons_of_pos (p := fun u => u != 0) htest, List.map_cons, textDec]

/-- A list of units decodes to a string when its units are nonzero with the string's characters as low bytes, and no
further: a zero unit, or the end of the list, follows (R140). -/
theorem textDec_eq_iff : textDec u = s ↔
    (∀ i < s.length, u.getD i 0 ≠ 0 ∧ s.getD i 0 = (u.getD i 0).setWidth 8) ∧ u.getD s.length 0 = 0 := by
  induction u generalizing s with
  | nil =>
    cases s with
    | nil => simp [textDec]
    | cons b s => exact iff_of_false (List.cons_ne_nil b s).symm fun h => (h.1 0 (Nat.succ_pos _)).1 rfl
  | cons v u ih =>
    by_cases hv : v = 0
    · subst hv
      rw [textDec_cons_zero]
      cases s with
      | nil => simp
      | cons b s => exact iff_of_false (List.cons_ne_nil b s).symm fun h => (h.1 0 (Nat.succ_pos _)).1 rfl
    · rw [textDec_cons_of_ne hv]
      cases s with
      | nil => simpa using hv
      | cons b s =>
        simp only [List.cons.injEq, ih, List.length_cons, Nat.forall_lt_succ_left, List.getD_cons_zero,
          List.getD_cons_succ, ne_eq, hv, not_false_eq_true, true_and, and_assoc, eq_comm (a := b)]

theorem unit_ne_zero_of_lt_textDec (hi : i < (textDec u).length) : u.getD i 0 ≠ 0 :=
  ((textDec_eq_iff.mp rfl).1 i hi).1

theorem textDec_getD (hi : i < (textDec u).length) : (textDec u).getD i 0 = (u.getD i 0).setWidth 8 :=
  ((textDec_eq_iff.mp rfl).1 i hi).2

/-- The unit after the string is zero, or beyond the list. -/
theorem unit_after_textDec : u.getD (textDec u).length 0 = 0 := (textDec_eq_iff.mp rfl).2

theorem textDec_length_le (u : List CodeUnit) : (textDec u).length ≤ u.length := by
  rw [textDec, List.length_map]
  exact (List.takeWhile_sublist _).length_le

/-- The string ends where nonzero units give way to a zero one. -/
theorem textDec_length_eq {j : Nat} (hbefore : ∀ i < j, u.getD i 0 ≠ 0) (hat : u.getD j 0 = 0) :
    (textDec u).length = j := by
  rcases Nat.lt_trichotomy (textDec u).length j with hlt | heq | hgt
  · exact absurd unit_after_textDec (hbefore _ hlt)
  · exact heq
  · exact absurd hat (unit_ne_zero_of_lt_textDec hgt)

/-! ## Encoding -/

theorem textUnit_of_lt (hi : i < s.length) : textUnit s i = (s.getD i 0).setWidth 16 := if_pos hi

theorem textUnit_of_ge (hi : s.length ≤ i) : textUnit s i = 0 := if_neg (Nat.not_lt.mpr hi)

theorem textEnc_of_fits (h : s.length ≤ c) : textEnc c s = .ok ((List.range c).map (textUnit s)) :=
  if_neg (Nat.not_lt.mpr h)

/-- Units beyond the slot are those after the string: zero. -/
theorem getD_map_textUnit (h : s.length ≤ c) (i : Nat) :
    ((List.range c).map (textUnit s)).getD i 0 = textUnit s i := by
  by_cases hi : i < c
  · simp [hi]
  · rw [List.getD_eq_default _ _ (by simpa using hi), textUnit_of_ge (by omega)]

theorem textEnc_eq_ok_iff :
    textEnc c s = .ok u ↔ s.length ≤ c ∧ u.length = c ∧ ∀ i, u.getD i 0 = textUnit s i := by
  by_cases hs : s.length ≤ c
  · rw [textEnc_of_fits hs, Except.ok.injEq]
    constructor
    · rintro rfl
      exact ⟨hs, by simp, getD_map_textUnit hs⟩
    · rintro ⟨-, hlen, hread⟩
      refine List.ext_getElem (by simp [hlen]) fun i hi hi' => ?_
      rw [← List.getD_eq_getElem _ 0 hi, ← List.getD_eq_getElem _ 0 hi', getD_map_textUnit hs, hread]
  · simp [textEnc, hs, Nat.not_le.mp hs]

/-! ## The laws of R144 -/

theorem setWidth_8_of_16 (b : Byte) : (b.setWidth 16).setWidth 8 = b := by
  rw [BitVec.setWidth_setWidth_of_le _ (by decide), BitVec.setWidth_eq]

theorem setWidth_64_of_16 (b : Byte) : (b.setWidth 16).setWidth 64 = b.setWidth 64 := by
  rw [← BitVec.toNat_inj, BitVec.toNat_setWidth_of_le (by decide), BitVec.toNat_setWidth_of_le (by decide),
    BitVec.toNat_setWidth_of_le (by decide)]

/-- A unit survives the text view when its high byte is zero. -/
theorem setWidth_16_of_8_iff {v : CodeUnit} : v = (v.setWidth 8).setWidth 16 ↔ v.toNat < 256 := by
  rw [← BitVec.toNat_inj, BitVec.toNat_setWidth_of_le (by decide), BitVec.toNat_setWidth]
  omega

theorem textDec_of_textEnc (hzero : (0 : Byte) ∉ s) (h : textEnc c s = .ok u) : textDec u = s := by
  obtain ⟨-, -, hread⟩ := textEnc_eq_ok_iff.mp h
  refine textDec_eq_iff.mpr ⟨fun i hi => ?_, ?_⟩
  · have hback : (u.getD i 0).setWidth 8 = s.getD i 0 := by
      rw [hread, textUnit_of_lt hi, setWidth_8_of_16]
    refine ⟨fun hnul => hzero ?_, hback.symm⟩
    rw [hnul, List.getD_eq_getElem _ _ hi] at hback
    exact List.mem_iff_getElem.mpr ⟨i, hi, hback.symm⟩
  · rw [hread, textUnit_of_ge le_rfl]

theorem textEnc_textDec_iff : textEnc u.length (textDec u) = .ok u ↔
    (∀ i < (textDec u).length, (u.getD i 0).toNat < 256) ∧ ∀ i, (textDec u).length ≤ i → u.getD i 0 = 0 := by
  have hchar (i : Nat) (hi : i < (textDec u).length) :
      u.getD i 0 = textUnit (textDec u) i ↔ (u.getD i 0).toNat < 256 := by
    rw [textUnit_of_lt hi, textDec_getD hi, setWidth_16_of_8_iff]
  rw [textEnc_eq_ok_iff]
  constructor
  · rintro ⟨-, -, hread⟩
    exact ⟨fun i hi => (hchar i hi).mp (hread i), fun i hi => (hread i).trans (textUnit_of_ge hi)⟩
  · rintro ⟨hlow, hafter⟩
    refine ⟨textDec_length_le u, rfl, fun i => ?_⟩
    rcases Nat.lt_or_ge i (textDec u).length with hi | hi
    · exact (hchar i hi).mpr (hlow i hi)
    · rw [textUnit_of_ge hi, hafter i hi]

end

/-- Settles O34: in (b) the string's length is the one index that can separate the nonzero units from the zeros. -/
theorem textViewLaws : Obligations.TextViewLaws := by
  refine ⟨fun c s hs hzero => ?_, fun u => ?_, fun _ => rfl⟩
  · exact ⟨_, textEnc_of_fits hs, textDec_of_textEnc hzero (textEnc_of_fits hs)⟩
  · rw [textEnc_textDec_iff]
    constructor
    · rintro ⟨hlow, hafter⟩
      exact ⟨_, textDec_length_le u, fun i hi => ⟨unit_ne_zero_of_lt_textDec hi, hlow i hi⟩, hafter⟩
    · rintro ⟨j, -, hbefore, hafter⟩
      obtain rfl := textDec_length_eq (fun i hi => (hbefore i hi).1) (hafter j le_rfl)
      exact ⟨fun i hi => (hbefore i hi).2, hafter⟩

end Sys2Proof.Machine
end

section
/-! SUPPORT. The operations TXT.DEC and TXT.ENC (43_text.md R142, R143). -/

namespace Sys2Proof.Machine

/-! ## The unassigned text ids -/

/-- A word that decodes to nothing takes IllegalOp (60_exceptions.md R172). -/
theorem issue_of_not_decoded {cmd : Command} (h : ¬ ∃ i, decode cmd = .ok i) (s : State) :
    issue cmd s = .next { s with err := 6, eflags := s.eflags ||| 0x40 } := by
  cases hd : decode cmd with
  | ok i => exact absurd ⟨i, hd⟩ h
  | error e => rw [issue, hd]; rfl

/-- A word of Format T with tid 6 or 7 decodes to nothing (30_encoding.md R86). -/
theorem not_decoded_of_tid {row : OpRow} (hrow : row ∈ opcodeTable) (hformat : row.format = .T) {tid : BitVec 3}
    (htid : 6 ≤ tid.toNat) : ¬ ∃ i, decode (row.op.setWidth 32 ||| tid.setWidth 32 <<< 8) = .ok i := by
  have hword := toNat_op_or_field row.op tid (by decide)
  have hop : (row.op.setWidth 32 ||| tid.setWidth 32 <<< 8).extractLsb' 0 8 = row.op := by
    rw [extractLsb'_eq_iff, operand, hword]
    omega
  rw [decode_of_row hrow hop, hformat]
  rintro ⟨-, hconstraint⟩
  rw [staticConstraint, operand, hword] at hconstraint
  omega

/-! ## The units of a register -/

section
variable {c : RecFile} {t : TextField} {i : Nat}

/-- A unit is zero when the register's element reads as zero. -/
theorem read_eq_zero_iff (hi : i < t.capacity) : c.read t.reg i = 0 ↔ (c.units t).getD i 0 = 0 := by
  rw [← c.getElem_units t i hi]
  exact setWidth_64_inj (v' := 0) (by decide)

/-- The low byte of an element is that of its unit. -/
theorem setWidth_8_read (hi : i < t.capacity) :
    (c.read t.reg i).setWidth 8 = ((c.units t).getD i 0).setWidth 8 := by
  rw [← c.getElem_units t i hi, BitVec.setWidth_setWidth_of_le _ (by decide)]

end

/-! ## The obligations -/

/-- Settles O32: j is the length of the string. -/
theorem txtDecRule : Obligations.TxtDecRule := by
  refine ⟨fun t s => ⟨toNat_encodeT _ t, ?_⟩,
    fun s _ htid => issue_of_not_decoded (not_decoded_of_tid (row := (Instr.txtDec .aName).row)
      (encode_matches_row (.txtDec .aName)).2 rfl htid) s⟩
  have hcap := textDec_units_length_le s.record t
  refine ⟨(textDec (s.record.units t)).length, s.tb.writeList 0 (textDec (s.record.units t)), hcap, fun i hi => ?_,
    fun hj => ?_, exec_of_ok (i := .txtDec t) rfl, fun i hi => ?_, fun a ha => ?_⟩
  · rw [Ne, read_eq_zero_iff (hi.trans_le hcap)]
    exact unit_ne_zero_of_lt_textDec hi
  · rw [read_eq_zero_iff hj, unit_after_textDec]
  · rw [Memory.read_writeList_zero_of_lt _ hi, textDec_getD hi, setWidth_8_read (hi.trans_le hcap)]
  · exact Memory.read_writeList_of_ge (by omega)

/-- The units TXT.ENC writes: the characters of `TB` below `TLEN`, and zeros (R143). -/
theorem textUnit_readList (m : Memory) (n i : Nat) :
    (textUnit (m.readList 0 n) i).setWidth 64 = if i < n then (m.read i).setWidth 64 else 0 := by
  split_ifs with hi
  · rw [textUnit_of_lt (by simpa using hi), Memory.getD_readList m 0 n i hi, Nat.zero_add,
      setWidth_64_of_16]
  · rw [textUnit_of_ge (by simpa using hi)]
    rfl

theorem opTextEnc_of_fits {t : TextField} {s : State} (h : s.tlen.toNat ≤ t.capacity) :
    opTextEnc t s = .ok { s with record := s.record.setUnits t (textUnit (s.tb.readList 0 s.tlen.toNat)) } := by
  rw [opTextEnc, check_eq_ok]
  exact ⟨decide_eq_false (Nat.not_lt.mpr h), rfl⟩

/-- Settles O33: a string that fits, one that does not, and the unassigned ids. -/
theorem txtEncRule : Obligations.TxtEncRule := by
  refine ⟨fun t s => ⟨toNat_encodeT _ t, fun hfits => ?_, fun hlong => ?_⟩,
    fun s _ htid => issue_of_not_decoded (not_decoded_of_tid (row := (Instr.txtEnc .aName).row)
      (encode_matches_row (.txtEnc .aName)).2 rfl htid) s⟩
  · refine ⟨s.record.setUnits t (textUnit (s.tb.readList 0 s.tlen.toNat)),
      exec_of_ok (i := .txtEnc t) (opTextEnc_of_fits hfits), fun i hi => ?_, fun r hr i =>
      RecFile.read_setUnits_other _ t _ r i hr⟩
    rw [RecFile.read_setUnits_same _ t _ i hi, textUnit_readList]
  · exact exec_of_error (i := .txtEnc t) (opTextEnc_error.mpr ⟨hlong, rfl⟩)

end Sys2Proof.Machine
end

/-! # The checksum (44_checksum.md) -/

section
/-! SUPPORT. The CRC register: a shift loses nothing and distributes over xor, and so do a byte's eight shifts and the fold
over a message (44_checksum.md R150, R160). -/

namespace Sys2Proof.Machine

/-! ## One shift -/

theorem and_0x8000_ne_zero_iff {c : BitVec 16} : c &&& 0x8000 ≠ 0 ↔ c.msb = true := by
  rw [BitVec.msb_eq_getLsbD_last, show (0x8000 : BitVec 16) = BitVec.twoPow 16 15 from rfl, BitVec.and_twoPow]
  cases c.getLsbD 15 <;> simp

/-- The bit shifted out decides whether the polynomial is added. -/
theorem crcShift_eq (c : BitVec 16) : crcShift c = (c <<< 1) ^^^ (if c.msb then 0x1021 else 0) := by
  simp only [crcShift, and_0x8000_ne_zero_iff]
  split_ifs
  · rfl
  · exact BitVec.xor_zero.symm

theorem crcShift_xor (c d : BitVec 16) : crcShift (c ^^^ d) = crcShift c ^^^ crcShift d := by
  have hcoeff : (if (c ^^^ d).msb then 0x1021 else 0 : BitVec 16) =
      (if c.msb then 0x1021 else 0) ^^^ (if d.msb then 0x1021 else 0) := by
    rw [BitVec.msb_xor]
    cases c.msb <;> cases d.msb <;> rfl
  rw [crcShift_eq, crcShift_eq, crcShift_eq, hcoeff, BitVec.shiftLeft_xor_distrib]
  ac_rfl

/-- The polynomial ends in 1, so the bit shifted out comes back as bit 0. -/
theorem getLsbD_zero_crcShift (c : BitVec 16) : (crcShift c).getLsbD 0 = c.msb := by
  rw [crcShift_eq, BitVec.getLsbD_xor, BitVec.getLsbD_shiftLeft]
  cases c.msb <;> rfl

/-- The top bit and the others determine a register. -/
theorem eq_of_msb_of_shiftLeft_one {c d : BitVec 16} (hmsb : c.msb = d.msb) (hshift : c <<< 1 = d <<< 1) : c = d := by
  refine BitVec.eq_of_getLsbD_eq fun i hi => ?_
  by_cases htop : i = 15
  · subst htop
    simpa only [BitVec.msb_eq_getLsbD_last] using hmsb
  · have hbit := congrArg (fun e => e.getLsbD (i + 1)) hshift
    simpa [hi, show i + 1 < 16 by omega] using hbit

theorem crcShift_injective : Function.Injective crcShift := by
  intro c d h
  have hmsb : c.msb = d.msb := by rw [← getLsbD_zero_crcShift, h, getLsbD_zero_crcShift]
  rw [crcShift_eq, crcShift_eq, hmsb, BitVec.xor_left_inj] at h
  exact eq_of_msb_of_shiftLeft_one hmsb h

/-! ## Eight shifts -/

theorem crcShift_iterate_xor (n : Nat) (c d : BitVec 16) :
    crcShift^[n] (c ^^^ d) = crcShift^[n] c ^^^ crcShift^[n] d := by
  induction n generalizing c d with
  | zero => rfl
  | succ n ih => rw [Function.iterate_succ_apply, crcShift_xor, ih, ← Function.iterate_succ_apply,
      ← Function.iterate_succ_apply]

/-- A byte at the bottom of the register moves up without meeting the polynomial. -/
theorem crcShift_iterate_of_byte (b : Byte) {n : Nat} (hn : n ≤ 8) :
    crcShift^[n] (b.setWidth 16) = b.setWidth 16 <<< n := by
  induction n with
  | zero => exact (BitVec.shiftLeft_zero _).symm
  | succ n ih =>
    have hmsb : (b.setWidth 16 <<< n : BitVec 16).msb = false := by
      rw [BitVec.msb_eq_getLsbD_last, BitVec.getLsbD_shiftLeft, BitVec.getLsbD_setWidth,
        BitVec.getLsbD_of_ge b _ (by omega), Bool.and_false, Bool.and_false]
    rw [Function.iterate_succ_apply', ih (by omega), crcShift_eq, hmsb, if_neg Bool.false_ne_true,
      ← BitVec.shiftLeft_add]
    exact BitVec.xor_zero

/-! ## One byte -/

theorem crcByte_eq_iterate (c : BitVec 16) (b : Byte) : crcByte c b = crcShift^[8] (c ^^^ b.setWidth 16 <<< 8) := rfl

theorem crcByte_xor (c d : BitVec 16) (a b : Byte) :
    crcByte (c ^^^ d) (a ^^^ b) = crcByte c a ^^^ crcByte d b := by
  simp only [crcByte_eq_iterate, ← crcShift_iterate_xor, BitVec.setWidth_xor, BitVec.shiftLeft_xor_distrib]
  congr 1
  ac_rfl

theorem crcByte_left_injective (b : Byte) : Function.Injective (crcByte · b) := fun _ _ h =>
  (BitVec.xor_left_inj _).mp (crcShift_injective.iterate 8 h)

theorem crcByte_right_injective (c : BitVec 16) : Function.Injective (crcByte c) := by
  intro a b h
  have htop := (BitVec.xor_right_inj _).mp (crcShift_injective.iterate 8 h)
  refine BitVec.eq_of_getLsbD_eq fun i hi => ?_
  have hbit := congrArg (fun e => e.getLsbD (i + 8)) htop
  simpa [show i + 8 < 16 by omega, show i < 16 by omega] using hbit

/-! ## A message -/

theorem crc16_append (p q : List Byte) : crc16 (p ++ q) = q.foldl crcByte (crc16 p) := List.foldl_append

theorem crc16_concat (p : List Byte) (b : Byte) : crc16 (p ++ [b]) = crcByte (crc16 p) b := crc16_append p [b]

theorem foldl_crcByte_xor {a b : List Byte} (h : a.length = b.length) (c d : BitVec 16) :
    (List.zipWith (· ^^^ ·) a b).foldl crcByte (c ^^^ d) = a.foldl crcByte c ^^^ b.foldl crcByte d := by
  induction a generalizing b c d with
  | nil =>
    obtain rfl := List.length_eq_zero_iff.mp h.symm
    rfl
  | cons x a ih =>
    cases b with
    | nil => cases h
    | cons y b =>
      rw [List.zipWith_cons_cons, List.foldl_cons, crcByte_xor, ih (Nat.succ.inj h), List.foldl_cons, List.foldl_cons]

theorem foldl_crcByte_injective (q : List Byte) : Function.Injective (q.foldl crcByte) := by
  induction q with
  | nil => exact Function.injective_id
  | cons b q ih => exact ih.comp (crcByte_left_injective b)

/-- Settles O37: the register starts at 0, which is 0 xor 0 and what zero bytes leave. -/
theorem crcIsLinear : Obligations.CrcIsLinear :=
  ⟨fun _ _ h => foldl_crcByte_xor h 0 0,
    fun n bs => by rw [crc16_append, crc16_replicate_zero, crc16], crc16_replicate_zero⟩

/-- Settles O39: the changed byte changes the register, and no later byte makes the registers equal again. -/
theorem crcDetectsAByteChange : Obligations.CrcDetectsAByteChange := by
  intro p q b b' hne h
  rw [crc16_append, crc16_append, List.foldl_cons, List.foldl_cons] at h
  exact hne (crcByte_right_injective _ (foldl_crcByte_injective q h))

/-! ## The residue -/

theorem setWidth_shiftLeft_xor_setWidth (h l : Byte) : (h.setWidth 16 <<< 8 ^^^ l.setWidth 16 : BitVec 16) = h ++ l := by
  refine BitVec.eq_of_getLsbD_eq fun i hi => ?_
  rw [BitVec.getLsbD_append]
  by_cases hlow : i < 8
  · simp [hlow, hi]
  · simp [hlow, hi, BitVec.getLsbD_of_ge l i (by omega)]

theorem beDec_pair (h l : Byte) : beDec [h, l] = (h ++ l : BitVec 16).toNat := by
  rw [BitVec.toNat_append, ← Nat.shiftLeft_add_eq_or_of_lt l.isLt, Nat.shiftLeft_eq]
  simp only [beDec, List.reverse_cons, List.reverse_nil, List.nil_append, List.cons_append, leDec]
  omega

/-- The second byte clears the register exactly when the first has left it at the top, and it gets there by the same eight
shifts from the bottom. -/
theorem crcByte_crcByte_eq_zero_iff {c : BitVec 16} {h l : Byte} :
    crcByte (crcByte c h) l = 0 ↔ c = h ++ l := by
  have hzero : crcShift^[8] 0 = 0 := by decide
  calc crcByte (crcByte c h) l = 0
      ↔ crcByte c h = l.setWidth 16 <<< 8 := by
        rw [crcByte_eq_iterate _ l, ← hzero, (crcShift_injective.iterate 8).eq_iff]
        exact BitVec.xor_eq_zero_iff
    _ ↔ c ^^^ h.setWidth 16 <<< 8 = l.setWidth 16 := by
        rw [crcByte_eq_iterate, ← crcShift_iterate_of_byte l le_rfl, (crcShift_injective.iterate 8).eq_iff]
    _ ↔ c = h ++ l := by
        rw [← setWidth_shiftLeft_xor_setWidth, ← BitVec.xor_left_inj (h.setWidth 16 <<< 8), BitVec.xor_assoc,
          BitVec.xor_self, BitVec.xor_zero, BitVec.xor_comm (BitVec.setWidth 16 l)]

theorem crc16_residue_iff {bs : List Byte} {h l : Byte} :
    crc16 (bs ++ [h, l]) = 0 ↔ beDec [h, l] = (crc16 bs).toNat := by
  rw [crc16_append, beDec_pair, BitVec.toNat_inj, eq_comm (a := h ++ l)]
  exact crcByte_crcByte_eq_zero_iff

/-- Settles O38: the two bytes of be_enc decode to the CRC they encode. -/
theorem crcResidue : Obligations.CrcResidue := by
  refine ⟨fun _ _ _ => crc16_residue_iff, fun bs => ?_⟩
  obtain ⟨h, l, hpair⟩ := List.length_eq_two.mp (beEnc_length 2 (crc16 bs).toNat)
  rw [hpair, crc16_residue_iff, ← hpair, beDec_beEnc (crc16 bs).isLt]

end Sys2Proof.Machine
end

section
/-! SUPPORT. The bit-serial procedure on natural numbers (44_checksum.md R150). -/

namespace Sys2Proof.Machine

/-- One shift of the procedure as R150 writes it: left within 16 bits, then the polynomial if bit 15 was one. -/
def crcShiftNat (x : Nat) : Nat :=
  if x &&& 0x8000 ≠ 0 then ((x <<< 1) ^^^ 0x1021) &&& 0xFFFF else (x <<< 1) &&& 0xFFFF

theorem toNat_crcShift (c : BitVec 16) : (crcShift c).toNat = crcShiftNat c.toNat := by
  have hshift : (c <<< 1).toNat = (c.toNat <<< 1) &&& 0xFFFF := by
    rw [BitVec.toNat_shiftLeft, Nat.and_two_pow_sub_one_eq_mod _ 16]
  have htest : c &&& 0x8000 ≠ 0 ↔ c.toNat &&& 0x8000 ≠ 0 := by
    rw [Ne, ← BitVec.toNat_inj, BitVec.toNat_and]
    rfl
  simp only [crcShift, crcShiftNat, htest]
  split_ifs
  · rw [BitVec.toNat_xor, hshift, Nat.and_xor_distrib_right]
    rfl
  · exact hshift

/-- A byte loses nothing at the top of the register. -/
theorem toNat_setWidth_shiftLeft_8 (b : Byte) : (b.setWidth 16 <<< 8 : BitVec 16).toNat = b.toNat <<< 8 := by
  rw [BitVec.toNat_shiftLeft, BitVec.toNat_setWidth_of_le (by decide), Nat.shiftLeft_eq, Nat.mod_eq_of_lt (by omega)]

theorem toNat_crcByte (c : BitVec 16) (b : Byte) :
    (crcByte c b).toNat = crcShiftNat^[8] (c.toNat ^^^ b.toNat <<< 8) := by
  have hiterate : Function.Semiconj BitVec.toNat crcShift^[8] crcShiftNat^[8] :=
    Function.Semiconj.iterate_right toNat_crcShift 8
  rw [crcByte_eq_iterate, hiterate, BitVec.toNat_xor, toNat_setWidth_shiftLeft_8]

/-- Settles O35: byte by byte. -/
theorem crcBitSerial : Obligations.CrcBitSerial := fun _ =>
  (List.foldl_hom BitVec.toNat fun c b => (toNat_crcByte c b).symm).symm

end Sys2Proof.Machine
end

section
/-! SUPPORT. The CRC as the remainder of a polynomial over GF(2) (44_checksum.md R161): a shift of the register multiplies
its residue class modulo the CRC polynomial by x. -/

namespace Sys2Proof.Machine

open Polynomial

/-- The polynomial whose coefficients are the bits of a number below bit `n`. -/
noncomputable def bitPolynomial (n v : Nat) : (ZMod 2)[X] :=
  ∑ i ∈ Finset.range n, if v.testBit i then X ^ i else 0

/-- The CRC polynomial (R161). -/
noncomputable def crcPolynomial : (ZMod 2)[X] := X ^ 16 + X ^ 12 + X ^ 5 + 1

/-! ## The polynomial of some bits -/

@[simp] theorem bitPolynomial_zero (n : Nat) : bitPolynomial n 0 = 0 := by
  simp [bitPolynomial]

/-- Polynomials over GF(2) add bit by bit. -/
theorem bitPolynomial_xor (n v w : Nat) : bitPolynomial n (v ^^^ w) = bitPolynomial n v + bitPolynomial n w := by
  rw [bitPolynomial, bitPolynomial, bitPolynomial, ← Finset.sum_add_distrib]
  refine Finset.sum_congr rfl fun i _ => ?_
  rw [Nat.testBit_xor]
  cases v.testBit i <;> cases w.testBit i <;> simp [CharTwo.add_self_eq_zero]

theorem bitPolynomial_succ (n v : Nat) :
    bitPolynomial (n + 1) v = bitPolynomial n v + if v.testBit n then X ^ n else 0 := Finset.sum_range_succ ..

/-- The bits below `k` are one polynomial, those from `k` on another times x^k. -/
theorem bitPolynomial_split {k low : Nat} (hlow : low < 2 ^ k) (n high : Nat) :
    bitPolynomial (k + n) (2 ^ k * high + low) = bitPolynomial k low + X ^ k * bitPolynomial n high := by
  rw [bitPolynomial, Finset.sum_range_add, bitPolynomial, bitPolynomial, Finset.mul_sum]
  congr 1
  · refine Finset.sum_congr rfl fun i hi => ?_
    rw [Nat.testBit_two_pow_mul_add _ hlow, if_pos (Finset.mem_range.mp hi)]
  · refine Finset.sum_congr rfl fun i _ => ?_
    rw [Nat.testBit_two_pow_mul_add _ hlow, if_neg (Nat.not_lt.mpr (Nat.le_add_right k i)), Nat.add_sub_cancel_left,
      mul_ite, mul_zero, pow_add]

theorem bitPolynomial_shiftLeft (k n v : Nat) : bitPolynomial (k + n) (v <<< k) = X ^ k * bitPolynomial n v := by
  rw [Nat.shiftLeft_eq, Nat.mul_comm, ← Nat.add_zero (2 ^ k * v), bitPolynomial_split (Nat.two_pow_pos k),
    bitPolynomial_zero, zero_add]

/-- The polynomial of degree below 16 that a register stands for. -/
noncomputable def registerPolynomial (c : BitVec 16) : (ZMod 2)[X] := bitPolynomial 16 c.toNat

theorem registerPolynomial_eq_sum (c : BitVec 16) :
    registerPolynomial c = ∑ i ∈ Finset.range 16, if c.getLsbD i then X ^ i else 0 := rfl

theorem registerPolynomial_xor (c d : BitVec 16) :
    registerPolynomial (c ^^^ d) = registerPolynomial c + registerPolynomial d := by
  rw [registerPolynomial, BitVec.toNat_xor, bitPolynomial_xor, registerPolynomial, registerPolynomial]

/-! ## A shift, a byte and a message -/

/-- A shift multiplies by x, and drops x^16 if that arises. -/
theorem X_mul_registerPolynomial (c : BitVec 16) :
    X * registerPolynomial c = registerPolynomial (c <<< 1) + if c.msb then X ^ 16 else 0 := by
  have htop : (c.toNat <<< 1).testBit 16 = c.msb := by
    rw [Nat.testBit_shiftLeft, BitVec.testBit_toNat, BitVec.msb_eq_getLsbD_last]
    rfl
  have hlow : bitPolynomial 16 (c.toNat <<< 1) = registerPolynomial (c <<< 1) := by
    rw [registerPolynomial, bitPolynomial, bitPolynomial]
    refine Finset.sum_congr rfl fun i hi => ?_
    rw [BitVec.toNat_shiftLeft, Nat.testBit_mod_two_pow, decide_eq_true (Finset.mem_range.mp hi), Bool.true_and]
  have hshift := bitPolynomial_shiftLeft 1 16 c.toNat
  rw [Nat.add_comm, bitPolynomial_succ, htop, hlow, pow_one] at hshift
  exact hshift.symm

theorem registerPolynomial_0x1021 : registerPolynomial 0x1021 = X ^ 12 + X ^ 5 + 1 := by
  have hbits : (Finset.range 16).filter (fun i => (0x1021 : BitVec 16).getLsbD i) = {12, 5, 0} := by decide
  rw [registerPolynomial_eq_sum, ← Finset.sum_filter, hbits]
  simp [add_assoc]

theorem X_mul_registerPolynomial_eq (c : BitVec 16) :
    X * registerPolynomial c = registerPolynomial (crcShift c) + if c.msb then crcPolynomial else 0 := by
  rw [X_mul_registerPolynomial, crcShift_eq, registerPolynomial_xor]
  cases c.msb with
  | false => simp [registerPolynomial]
  | true =>
    rw [if_pos rfl, if_pos rfl, if_pos rfl, registerPolynomial_0x1021, crcPolynomial]
    linear_combination -CharTwo.add_self_eq_zero (X ^ 12 + X ^ 5 + 1 : (ZMod 2)[X])

/-- The residue class of a register modulo the CRC polynomial. -/
noncomputable def crcClass (c : BitVec 16) : AdjoinRoot crcPolynomial :=
  AdjoinRoot.mk crcPolynomial (registerPolynomial c)

theorem crcClass_xor (c d : BitVec 16) : crcClass (c ^^^ d) = crcClass c + crcClass d := by
  rw [crcClass, registerPolynomial_xor, map_add, crcClass, crcClass]

theorem crcClass_crcShift (c : BitVec 16) : crcClass (crcShift c) = AdjoinRoot.root crcPolynomial * crcClass c := by
  have hreduced : AdjoinRoot.mk crcPolynomial (if c.msb then crcPolynomial else 0) = 0 := by
    split_ifs
    · exact AdjoinRoot.mk_self
    · exact map_zero _
  rw [crcClass, crcClass, ← AdjoinRoot.mk_X, ← map_mul, X_mul_registerPolynomial_eq, map_add, hreduced, add_zero]

theorem crcClass_crcShift_iterate (n : Nat) (c : BitVec 16) :
    crcClass (crcShift^[n] c) = AdjoinRoot.root crcPolynomial ^ n * crcClass c := by
  induction n with
  | zero => rw [pow_zero, one_mul, Function.iterate_zero_apply]
  | succ n ih => rw [Function.iterate_succ_apply', crcClass_crcShift, ih, pow_succ', mul_assoc]

/-- A byte entering at the top is its eight bits times x^8. -/
theorem registerPolynomial_byte (b : Byte) :
    registerPolynomial (b.setWidth 16 <<< 8) = X ^ 8 * bitPolynomial 8 b.toNat := by
  rw [registerPolynomial, toNat_setWidth_shiftLeft_8, ← bitPolynomial_shiftLeft]

theorem crcClass_crcByte (c : BitVec 16) (b : Byte) : crcClass (crcByte c b) =
    AdjoinRoot.root crcPolynomial ^ 8 * crcClass c +
      AdjoinRoot.mk crcPolynomial (X ^ 16 * bitPolynomial 8 b.toNat) := by
  have hbyte : crcClass (b.setWidth 16 <<< 8) = AdjoinRoot.mk crcPolynomial (X ^ 8 * bitPolynomial 8 b.toNat) :=
    congrArg _ (registerPolynomial_byte b)
  rw [crcByte_eq_iterate, crcClass_crcShift_iterate, crcClass_xor, hbyte, mul_add, ← AdjoinRoot.mk_X, ← map_pow,
    ← map_mul _ _ (X ^ 8 * _), ← mul_assoc, ← pow_add]

theorem beDec_concat (bs : List Byte) (b : Byte) : beDec (bs ++ [b]) = 2 ^ 8 * beDec bs + b.toNat := by
  rw [beDec, List.reverse_concat, leDec, Nat.add_comm]
  rfl

/-- The CRC of a message is congruent to the message's bits times x^16. -/
theorem crcClass_crc16 (bs : List Byte) : crcClass (crc16 bs) =
    AdjoinRoot.mk crcPolynomial (bitPolynomial (8 * bs.length) (beDec bs) * X ^ 16) := by
  induction bs using List.reverseRecOn with
  | nil => simp [crcClass, crc16, registerPolynomial, bitPolynomial]
  | append_singleton bs b ih =>
    rw [crc16_concat, crcClass_crcByte, ih, beDec_concat, List.length_append, List.length_singleton, Nat.mul_succ,
      Nat.add_comm _ 8, bitPolynomial_split b.isLt, ← AdjoinRoot.mk_X, ← map_pow, ← map_mul, ← map_add]
    congr 1
    ring

/-- Settles O36: congruent polynomials differ by a multiple of the CRC polynomial. -/
theorem crcIsThePolynomialRemainder : Obligations.CrcIsThePolynomialRemainder := by
  intro bs
  obtain ⟨q, hq⟩ := AdjoinRoot.mk_eq_mk.mp (crcClass_crc16 bs).symm
  exact ⟨q, by rw [mul_comm q]; exact sub_eq_iff_eq_add.mp hq⟩

end Sys2Proof.Machine
end

section
/-! SUPPORT. CRC16 (44_checksum.md R154), and CRC.VFY and CRC.FIX over the bytes they compute the CRC of (R151 to R156). -/

namespace Sys2Proof.Machine

/-! ## CRC16 -/

theorem opCrc16_of_inWindow {off len : Nat} {s : State} (hw : s.inWindow off len) :
    opCrc16 off len s = .ok { s with crc := crc16 (s.fb.readList off len),
                                     x2 := (crc16 (s.fb.readList off len)).setWidth 64 } := by
  rw [opCrc16, check_eq_ok]
  exact ⟨decide_eq_false (not_not.mpr hw), rfl⟩

/-- Settles O40: the two ends of the operation. -/
theorem crc16Rule : Obligations.Crc16Rule := fun off len _ =>
  ⟨toNat_encodeC _ off len, fun hw => exec_of_ok (i := .crc16 off len) (opCrc16_of_inWindow hw),
    fun hw => exec_of_error (i := .crc16 off len) (opCrc16_error.mpr ⟨hw, rfl⟩), rfl⟩

/-! ## The bytes under the checksum -/

/-- The checksummed range ends where the stored checksum begins (R151). -/
theorem take_packChecksummed (c : RecFile) :
    (packChecksummed c).take crcRange = packAvatar c.a ++ packInt .cUnknown c.cUnknown := by
  rw [packChecksummed, List.take_left' (by rw [List.length_append, packAvatar_length, packInt_length]; rfl)]

theorem crcBytes_eq (c : RecFile) :
    (packChecksummed c).take crcRange = (Reg.avatar ++ [Reg.cUnknown]).flatMap c.fieldBytes := by
  rw [take_packChecksummed, packAvatar_eq, List.flatMap_append, List.flatMap_singleton]
  exact congrArg _ (packInt_eq_fieldBytes rfl rfl rfl)

theorem crcBytes_length (c : RecFile) : ((packChecksummed c).take crcRange).length = crcRange := by
  rw [List.length_take, packChecksummed_length]
  rfl

/-- A buffer that holds just a list, from address 0, reads as the list. -/
theorem Memory.read_writeList_nil (bs : List Byte) : (Memory.writeList [] 0 bs).read = fun a => bs.getD a 0 := by
  funext a
  rw [Memory.read_writeList]
  split_ifs with ha
  · rw [Nat.sub_zero]
  · rw [List.getD_eq_default _ _ (by omega)]
    rfl

/-- Registers that stand one after another from 0 hold what their encodings in order say. -/
theorem fieldHolds_flatMap_fieldBytes {c : RecFile} {rs : List Reg} {bs : List Byte}
    (ht : Reg.tile rs 0 bs.length = true) (hbs : bs = rs.flatMap c.fieldBytes) :
    ∀ r ∈ rs, FieldHolds c r (fun a => bs.getD a 0) 0 := by
  rw [← Memory.read_writeList_nil, ← tile_holds_iff ht, ← hbs]
  exact Memory.readList_writeList [] 0 bs

theorem fieldHolds_crcBytes (c : RecFile) : ∀ r ∈ Reg.avatar ++ [.cUnknown],
    FieldHolds c r (fun a => ((packChecksummed c).take crcRange).getD a 0) 0 :=
  fieldHolds_flatMap_fieldBytes (by rw [crcBytes_length]; decide) (crcBytes_eq c)

/-! ## verify and fix -/

@[simp] theorem RecFile.fix_a (c : RecFile) : c.fix.a = c.a := by rw [RecFile.fix]
@[simp] theorem RecFile.fix_cUnknown (c : RecFile) : c.fix.cUnknown = c.cUnknown := by rw [RecFile.fix]
@[simp] theorem RecFile.fix_cChecksum (c : RecFile) : c.fix.cChecksum = c.cavCrc := by rw [RecFile.fix]

/-- The stored checksum is not under the checksum, so the fixup does not change what is computed (R153). -/
@[simp] theorem RecFile.cavCrc_fix (c : RecFile) : c.fix.cavCrc = c.cavCrc := by
  rw [RecFile.cavCrc, RecFile.cavCrc, take_packChecksummed, take_packChecksummed, RecFile.fix_a, RecFile.fix_cUnknown]

theorem RecFile.fix_fix (c : RecFile) : c.fix.fix = c.fix := by
  rw [RecFile.fix, RecFile.cavCrc_fix, RecFile.fix]

theorem RecFile.verify_iff (c : RecFile) : c.verify = true ↔ c.cavCrc = c.cChecksum := by
  rw [RecFile.verify, beq_iff_eq, eq_comm]

theorem RecFile.verify_fix (c : RecFile) : c.fix.verify = true := by
  rw [RecFile.verify_iff, RecFile.cavCrc_fix, RecFile.fix_cChecksum]

theorem exec_crcVfy (s : State) : exec .crcVfy s =
    .next { s with crc := s.record.cavCrc, x2 := if s.record.verify then 1 else 0, err := 0 } := by
  rw [exec_eq_complete, operation, opVerify, complete_ok, State.succeed, okCode]

theorem exec_crcFix (s : State) :
    exec .crcFix s = .next { s with crc := s.record.cavCrc, record := s.record.fix, err := 0 } := by
  rw [exec_eq_complete, operation, opFix, complete_ok, State.succeed, okCode]

/-- Settles O41: the bytes are the first 0x5E of the record's encoding. -/
theorem crcVfyRule : Obligations.CrcVfyRule := by
  refine fun s => ⟨rfl, _, crcBytes_length s.record, fieldHolds_crcBytes s.record, ?_⟩
  simp only [exec_crcVfy, RecFile.verify_iff]
  rfl

/-- Settles O42: after a fixup the stored checksum is the computed one. -/
theorem crcFixRule : Obligations.CrcFixRule := by
  refine fun s => ⟨rfl, _, crcBytes_length s.record, fieldHolds_crcBytes s.record, exec_crcFix s, fun t ht => ?_⟩
  obtain rfl := Host.Outcome.next.inj ((exec_crcFix s).symm.trans ht)
  refine ⟨?_, _, exec_crcVfy_of_verify s.record.verify_fix, rfl⟩
  rw [exec_crcFix, RecFile.cavCrc_fix, RecFile.fix_fix]

end Sys2Proof.Machine
end

section
/-! SUPPORT. The check digit (44_checksum.md R158, R159). -/

namespace Sys2Proof.Machine

theorem checkDigit_le_nine (d : Nat → Nat) : checkDigit d ≤ 9 :=
  Nat.le_of_lt_succ (Nat.mod_lt _ (by decide))

theorem isDigit_iff {b : Byte} : isDigit b = true ↔ 0x30 ≤ b.toNat ∧ b.toNat ≤ 0x39 := decide_eq_true_iff

theorem all_isDigit_readList_iff {m : Memory} {n : Nat} :
    (m.readList 0 n).all isDigit = true ↔ ∀ i < n, 0x30 ≤ (m.read i).toNat ∧ (m.read i).toNat ≤ 0x39 := by
  simp only [Memory.readList_zero, List.all_eq_true, List.forall_mem_map, List.mem_range, isDigit_iff]

theorem opCheckDigit_of_digits {s : State} (hlen : s.tlen.toNat = 10)
    (hdigits : ∀ i < 10, 0x30 ≤ (s.tb.read i).toNat ∧ (s.tb.read i).toNat ≤ 0x39) :
    opCheckDigit s = .ok (s.result (checkDigit (fun i => (s.tb.read i).toNat - 0x30))) := by
  rw [opCheckDigit, check_eq_ok, check_eq_ok, all_isDigit_readList_iff.mpr hdigits]
  exact ⟨decide_eq_false (not_not.mpr hlen), rfl, rfl⟩

/-- Settles O43: ten digits, any other text, and the value of a sum taken modulo 10. -/
theorem chkDgtRule : Obligations.ChkDgtRule := by
  refine fun s => ⟨rfl, fun hlen hdigits d hd => ?_, fun hbad => ?_, checkDigit_le_nine⟩
  · obtain rfl : d = fun i => (s.tb.read i).toNat - 0x30 := funext hd
    exact exec_of_ok (i := .chkDgt) (opCheckDigit_of_digits hlen hdigits)
  · refine exec_of_error (i := .chkDgt) (opCheckDigit_error.mpr ⟨hbad.imp_right fun hother => ?_, rfl⟩)
    obtain ⟨i, hi, hrange⟩ := hother
    rw [← Bool.not_eq_true, all_isDigit_readList_iff]
    intro hdigits
    have := hdigits i hi
    omega

end Sys2Proof.Machine
end

/-! # Exceptions (60_exceptions.md) -/

section
/-! SUPPORT. That every input ends in a next state, and what an exception writes and which ones an operation raises
(60_exceptions.md R170 to R178). -/

namespace Sys2Proof.Machine

/-! ## Nothing stops the block -/

/-- An operation ends in a next state, whether it succeeds or takes an exception (R176). -/
theorem exec_answers_next (i : Instr) (s : State) : ∃ t, exec i s = .next t := by
  rw [exec_eq_complete]
  rcases complete_cases s (operation i s) with ⟨u, _, hc⟩ | ⟨e, _, hc⟩
  · exact ⟨u.succeed, hc⟩
  · exact ⟨s.raise e, hc⟩

theorem issue_answers_next (cmd : Command) (s : State) : ∃ t, issue cmd s = .next t := by
  by_cases hd : ∃ i, decode cmd = .ok i
  · obtain ⟨i, hi⟩ := hd
    rw [issue_of_decode hi]
    exact exec_answers_next i s
  · exact ⟨_, issue_of_not_decoded hd s⟩

/-- Only an issued word has an outcome to look into: the other inputs are host actions without one. -/
theorem runInput_answers_next (a : Input) (s : State) : ∃ t, runInput a s = .next t := by
  cases a with
  | issue cmd => exact issue_answers_next cmd s
  | frame | read | setx | getx | movx | text | rtext | status | reset => exact ⟨_, rfl⟩

theorem step_answers_next (s : State) : ∃ t, step s = .next t := by
  cases hin : s.inputs with
  | nil => exact ⟨s, step_of_no_input hin⟩
  | cons a rest =>
    rw [step_of_input hin]
    exact runInput_answers_next a _

/-- Settles O8. -/
theorem everyStepAnswersNext : Obligations.EveryStepAnswersNext := ⟨step_answers_next, exec_answers_next⟩

/-! ## What an exception writes -/

/-- Settles O4: the words that are not legal are those that decode to nothing, which is said of the word alone. -/
theorem illegalWordRaisesIllegalOp : Obligations.IllegalWordRaisesIllegalOp := fun s cmd hillegal =>
  issue_of_not_decoded (mt (legalWordsDecode cmd).mp hillegal) s

/-- Settles O44: a success ends with ERR 0, and an exception is taken on the state the operation started from. -/
theorem exceptionsWriteOnlyTheStatus : Obligations.ExceptionsWriteOnlyTheStatus := by
  intro s t cmd h hne
  rcases issue_cases h with ⟨_, u, _, rfl⟩ | ⟨e, rfl⟩
  · exact absurd u.succeed_err hne
  · rfl

/-! ## Which exceptions an operation raises -/

/-- The rows of R175's table: inside the static constraints of its format an operation fails only as its row says. -/
theorem operation_error_mem_canRaise {i : Instr} {s : State} {e : Exc} (hwf : i.WellFormed)
    (h : operation i s = .error e) : e ∈ canRaise i := by
  cases i with
  | bfExt W o n =>
    have hfield : InField W.bits o.toNat n.toNat := of_decide_eq_true hwf
    rcases opExt_error.mp h with ⟨hout, _⟩ | ⟨_, _, rfl⟩
    · exact absurd hfield hout
    · simp [canRaise]
  | bfPack W o n =>
    have hfield : InField W.bits o.toNat n.toNat := of_decide_eq_true hwf
    rcases opPack_error.mp h with ⟨hout, _⟩ | ⟨_, _, rfl⟩ | ⟨_, _, _, rfl⟩
    · exact absurd hfield hout
    · simp [canRaise]
    · simp [canRaise]
  | ldiLe | ldiBe => obtain ⟨_, rfl⟩ := opLoad_error.mp h; simp [canRaise]
  | stiLe | stiBe => rcases opStore_error.mp h with ⟨_, rfl⟩ | ⟨_, _, rfl⟩ <;> simp [canRaise]
  | avaDec | frdDec => obtain ⟨_, rfl⟩ := opDecode_error.mp h; simp [canRaise]
  | cavDec =>
    obtain ⟨_, rfl⟩ := (opDecode_error (load := fun c bs => c.loadChecksummed bs 0)).mp h
    simp [canRaise]
  | fldGet f idx =>
    have hidx : idx.toNat < f.count := of_decide_eq_true hwf
    obtain ⟨hout, _⟩ := opGet_error.mp h
    exact absurd hidx (Nat.not_lt.mpr hout)
  | fldSet f idx =>
    have hidx : idx.toNat < f.count := of_decide_eq_true hwf
    rcases opSet_error.mp h with ⟨hout, _⟩ | ⟨_, _, rfl⟩
    · exact absurd hidx (Nat.not_lt.mpr hout)
    · simp [canRaise]
  | txtEnc t => obtain ⟨_, rfl⟩ := opTextEnc_error.mp h; simp [canRaise]
  | crc16 off len => obtain ⟨_, rfl⟩ := opCrc16_error.mp h; simp [canRaise]
  | chkDgt => obtain ⟨_, rfl⟩ := opCheckDigit_error.mp h; simp [canRaise]
  -- these have no check to fail
  | avaEnc | cavEnc | frdEnc | recZero | txtDec | crcVfy | crcFix => cases h

/-- Settles O46. -/
theorem onlyListedExceptions : Obligations.OnlyListedExceptions := by
  intro i s t hwf h
  rcases exec_cases h with ⟨u, _, rfl⟩ | ⟨e, he, rfl⟩
  · exact .inl u.succeed_err
  · exact .inr ⟨e, operation_error_mem_canRaise hwf he, s.raise_err e⟩

/-- Settles O47: the word is judged before the state (O4), and in BF.PACK (O13) and STI (O17) the contract is judged before
the value in x[1]. -/
theorem priorityOfCauses : Obligations.PriorityOfCauses := by
  refine ⟨fun cmd s hillegal => ⟨_, illegalWordRaisesIllegalOp s cmd hillegal, rfl⟩, fun W o n s hn hon hx _ => ?_,
    fun k off s hout _ => ?_⟩
  · obtain ⟨_, _, _, hcontract, _⟩ := bfPackRule W o n s
    exact ⟨_, hcontract hn hon hx, rfl⟩
  · obtain ⟨_, _, _, hlittle, _, _, _, hbig⟩ := storeRules k off s
    exact ⟨⟨_, hlittle hout, rfl⟩, ⟨_, hbig hout, rfl⟩⟩

end Sys2Proof.Machine
end

/-! # Reset (70_reset_and_hazards.md) -/

section
/-! SUPPORT. What an operation does in the state after reset: the window is empty, the text is empty, and every record
encodes to zero bytes, which a buffer does not list (70_reset_and_hazards.md R190, R191). -/

namespace Sys2Proof.Machine

/-! ## Zero bytes -/

/-- Zero bytes written to an untouched buffer leave it untouched: a cell is listed only if its byte is not zero. -/
theorem Memory.writeList_nil_of_zeros (a : Nat) {bs : List Byte} (h : ∀ b ∈ bs, b = 0) :
    Memory.writeList [] a bs = [] := by
  have hcells : Memory.cells a bs = [] :=
    List.filterMap_eq_nil_iff.mpr fun c hc => if_pos (h c.2 (List.of_mem_zip hc).2)
  rw [Memory.writeList, hcells]
  rfl

theorem encInt_zero (order : ByteOrder) (k : Nat) : ∀ b ∈ encInt order k 0, b = 0 := by
  cases order <;> simp [encInt, leEnc, beEnc]

/-- Every register of the record of zeros encodes to zero bytes. -/
theorem RecFile.fieldBytes_zero (rs : List Reg) : ∀ b ∈ rs.flatMap RecFile.zero.fieldBytes, b = 0 := by
  intro b hb
  obtain ⟨r, -, hb⟩ := List.mem_flatMap.mp hb
  obtain ⟨i, -, hb⟩ := List.mem_flatMap.mp hb
  rw [RecFile.read_zero] at hb
  exact encInt_zero _ _ b hb

/-- The embedded record stands between the first 17 `F.` registers and the last one (30_encoding.md R76). -/
theorem packFriend_eq (c : RecFile) :
    packFriend c = (Reg.friend.dropLast ++ (Reg.avatar ++ Reg.wrapper) ++ [Reg.fPad11B]).flatMap c.fieldBytes := by
  have hlast : packBytes c.f.pad11B = c.fieldBytes .fPad11B := packBytes_eq_fieldBytes rfl fun _ => rfl
  rw [packFriend, packFriendHead_eq, packChecksummed_eq, hlast]
  simp only [List.flatMap_append, List.flatMap_singleton]

/-! ## Operations in the state after reset -/

theorem exec_decode_reset {i : Instr} (hi : i = .avaDec ∨ i = .cavDec ∨ i = .frdDec) :
    exec i .reset = .next { State.reset with err := 1, eflags := 2 } := by
  rcases hi with rfl | rfl | rfl
  · obtain ⟨-, -, hsize⟩ := avaDecRule .reset
    exact hsize (by decide)
  · obtain ⟨-, -, hsize⟩ := cavDecRule .reset
    exact hsize (by decide)
  · obtain ⟨-, -, hsize⟩ := frdDecRule .reset
    exact hsize (by decide)

/-- The window is empty, and a load or a store takes at least one byte. -/
theorem exec_load_store_reset {k : Size} {off : BitVec 9} {i : Instr}
    (hi : i = .ldiLe k off ∨ i = .ldiBe k off ∨ i = .stiLe k off ∨ i = .stiBe k off) :
    exec i .reset = .next { State.reset with err := 7, eflags := 0x80 } := by
  have hbytes : 0 < k.bytes := by cases k <;> decide
  have hout : min State.reset.flen.toNat 0x120 < off.toNat + k.bytes := Nat.add_pos_right _ hbytes
  obtain ⟨-, -, hldiLe, -, -, hldiBe⟩ := loadRules k off .reset
  obtain ⟨-, -, -, hstiLe, -, -, -, hstiBe⟩ := storeRules k off .reset
  rcases hi with rfl | rfl | rfl | rfl
  · exact hldiLe hout
  · exact hldiBe hout
  · exact hstiLe hout
  · exact hstiBe hout

/-- The CRC of no bytes is 0, and the empty range at 0 is inside the empty window. -/
theorem exec_crc16_reset : exec (.crc16 0 0) .reset = .next .reset :=
  exec_of_ok (i := .crc16 0 0) (opCrc16_of_inWindow (off := 0) (len := 0) (Nat.zero_le _))

/-- An encode whose bytes are those of registers in some order writes a frame of zeros. -/
theorem exec_encode_reset {size : Nat} {bytes : RecFile → List Byte} {enc : Instr} {rs : List Reg}
    (henc : operation enc = opEncode size bytes)
    (hbytes : bytes RecFile.zero = rs.flatMap RecFile.zero.fieldBytes) :
    exec enc .reset = .next { State.reset with flen := BitVec.ofNat 16 size } := by
  have hframe : Memory.writeList [] 0 (bytes RecFile.zero) = [] :=
    Memory.writeList_nil_of_zeros 0 (hbytes ▸ RecFile.fieldBytes_zero rs)
  refine exec_of_ok (u := { State.reset with flen := BitVec.ofNat 16 size }) ((congrFun henc _).trans ?_)
  exact congrArg (fun m => Except.ok { State.reset with fb := m, flen := BitVec.ofNat 16 size }) hframe

/-- The first unit of every text field is zero. -/
theorem textDec_units_zero (t : TextField) : textDec (RecFile.zero.units t) = [] := by
  have hcap : 0 < t.capacity := by cases t <;> decide
  have hfirst : (RecFile.zero.units t).getD 0 0 = 0 := (read_eq_zero_iff hcap).mp (RecFile.read_zero t.reg 0)
  exact textDec_eq_iff.mpr ⟨fun _ hi => absurd hi (Nat.not_lt_zero _), hfirst⟩

theorem exec_txtDec_reset (t : TextField) : exec (.txtDec t) .reset = .next .reset := by
  refine exec_of_ok (i := .txtDec t) (u := .reset) ?_
  rw [operation, opTextDec, show State.reset.record = RecFile.zero from rfl, textDec_units_zero]
  rfl

theorem exec_chkDgt_reset : exec .chkDgt .reset = .next { State.reset with err := 7, eflags := 0x80 } := by
  obtain ⟨-, -, hbad, -⟩ := chkDgtRule .reset
  exact hbad (.inl (by decide))

theorem exec_recZero (s : State) :
    exec .recZero s = .next { s with record := RecFile.zero, crc := 0, err := 0 } := by
  rw [exec_eq_complete, operation, opZero, opFix, RecFile.fix_zero, RecFile.cavCrc_zero, complete_ok, State.succeed,
    okCode]

/-! ## The obligations -/

/-- Settles O55. -/
theorem resetInputRestarts : Obligations.ResetInputRestarts := fun _ _ h => step_of_input h

/-- Settles O56. -/
theorem afterReset : Obligations.AfterReset :=
  have hava : operation .avaEnc = opEncode avatarSize fun c => packAvatar c.a := rfl
  have hcav : operation .cavEnc = opEncode checksummedSize packChecksummed := rfl
  have hfrd : operation .frdEnc = opEncode friendSize packFriend := rfl
  ⟨⟨_, exec_crcVfy_of_verify (s := .reset) RecFile.verify_zero, rfl, rfl⟩,
    fun _ => exec_decode_reset,
    fun _ _ _ => exec_load_store_reset,
    exec_crc16_reset,
    exec_encode_reset hava (packAvatar_eq .zero),
    exec_encode_reset hcav (packChecksummed_eq .zero),
    exec_encode_reset hfrd (packFriend_eq .zero),
    exec_txtDec_reset,
    exec_chkDgt_reset,
    exec_recZero .reset⟩

end Sys2Proof.Machine
end
